-- ==== Sys2Proof/Word.lean ====
section
/-!
DEFINITION. The word types of the block: a byte, a nibble, a sequence of bytes (`00_scope.md` R11, R15).
-/

namespace Sys2Proof

/-- `Byte`: an unsigned integer 0..255, bit 7 its most significant bit (R11, R12). -/
abbrev Byte := BitVec 8

/-- `Nibble`: an unsigned integer 0..15 (R11). -/
abbrev Nibble := BitVec 4

/-- `Bytes`, `Frame`: a finite sequence of bytes, byte 0 first (R15, R60). -/
abbrev Bytes := List Byte

end Sys2Proof
end

