-- ==== Sys2Proof/Config.lean ====
section
/-!
DEFINITION. The configuration record `Cfg` as data, the six derived window constants as data, and the fixed
parameters that are no field of `Cfg` (`00_scope.md` R8 to R10, `10_state.md` R38, R39). The formulas over them are
in `Sys2Proof/Machine/Calibration.lean` and `Sys2Proof/Machine/Checksum.lean`.
-/

namespace Sys2Proof

/-- `HDR_LEN = 2`: bytes 0 and 1 hold the discriminator (R10). -/
def hdrLen : Nat := 2

/-- `MAX_LEN = 14`: "the protocol's maximum frame length" (R10, R93). -/
def maxLen : Nat := 14

/-- The value of `Cfg.checksum` as plain data: one of the three reductions that R173 defines, or the member `n` of the
family `Config.customChecksum`, which stands for "any total function" `Bytes -> Byte` (R38, R42).
DESIGN CHOICE, safe: log 6. -/
inductive ChecksumFn where
  | sum8
  | xor8
  | crc8
  | custom (n : Nat)
deriving DecidableEq, Repr

/-- The checksum functions a host may supply beside the three of R173. It has no body: nothing is known of its values,
so what is proved with `ChecksumFn.custom n` holds for every total function (R42, 93_implementation_defined I1).
DESIGN CHOICE, safe: log 6. -/
opaque Config.customChecksum : Nat → Bytes → Byte

/-- `Cfg` of R38: three nominal durations in microseconds, two tolerances in percent, the checksum function. Its legal
values are `cfgOk` (R41). -/
structure Cfg where
  tZero     : Nat
  tOne      : Nat
  tPre      : Nat
  tolBitPct : Nat
  tolPrePct : Nat
  checksum  : ChecksumFn
deriving DecidableEq, Repr

/-- The six window constants of R39, "computed once at construction and never again". -/
structure Windows where
  zLo : Nat
  zHi : Nat
  oLo : Nat
  oHi : Nat
  pLo : Nat
  pHi : Nat
deriving DecidableEq, Repr

end Sys2Proof
end

