-- ==== Sys2Proof/Machine/Calibration.lean ====
section
/-!
DEFINITION. The configuration's formulas: the windows, the default, the well-formedness predicate
(`10_state.md` R39 to R41).
-/

namespace Sys2Proof.Machine

/-- `delta(nom, pct) = (nom * pct) div 100`, the floor (R39). -/
def delta (nom pct : Nat) : Nat := nom * pct / 100

/-- The six constants of R39; each window is `[lo, hi)` (R13). -/
def windowsOf (c : Cfg) : Windows :=
  { zLo := c.tZero - delta c.tZero c.tolBitPct
    zHi := c.tZero + delta c.tZero c.tolBitPct
    oLo := c.tOne - delta c.tOne c.tolBitPct
    oHi := c.tOne + delta c.tOne c.tolBitPct
    pLo := c.tPre - delta c.tPre c.tolPrePct
    pHi := c.tPre + delta c.tPre c.tolPrePct }

/-- `d` lies in `[lo, hi)`: lower bound included, upper bound excluded (R13). -/
def inWindow (lo hi d : Nat) : Bool := decide (lo ≤ d) && decide (d < hi)

/-- The integer intervals `[lo, hi)` and `[lo', hi')` have no common element (R41 (c)). -/
def disjointWindows (lo hi lo' hi' : Nat) : Bool := decide (min hi hi' ≤ max lo lo')

/-- A nominal duration is in its legal range 1..65535 (R38, R41 (a)). -/
def durationInRange (t : Nat) : Bool := decide (1 ≤ t) && decide (t ≤ 65535)

/-- A tolerance is in its legal range 1..99 (R38, R41 (a)). -/
def pctInRange (p : Nat) : Bool := decide (1 ≤ p) && decide (p ≤ 99)

/-- `cfg_ok` of R41: (a) every field in its range, (b) each `delta` at least 1, (c) the windows pairwise disjoint,
(d) every upper bound at most 65536. It asks nothing of the checksum (R42). -/
def cfgOk (c : Cfg) : Bool :=
  let w := windowsOf c
  (durationInRange c.tZero && durationInRange c.tOne && durationInRange c.tPre
    && pctInRange c.tolBitPct && pctInRange c.tolPrePct)
  && (decide (1 ≤ delta c.tZero c.tolBitPct) && decide (1 ≤ delta c.tOne c.tolBitPct)
    && decide (1 ≤ delta c.tPre c.tolPrePct))
  && (disjointWindows w.zLo w.zHi w.oLo w.oHi && disjointWindows w.zLo w.zHi w.pLo w.pHi
    && disjointWindows w.oLo w.oHi w.pLo w.pHi)
  && (decide (w.pHi ≤ 65536) && decide (w.zHi ≤ 65536) && decide (w.oHi ≤ 65536))

/-- `Cfg.default` of R40. -/
def cfgDefault : Cfg :=
  { tZero := 500, tOne := 1000, tPre := 2000, tolBitPct := 25, tolPrePct := 25, checksum := .sum8 }

end Sys2Proof.Machine
end

