-- ==== Sys2Proof/Syntax.lean ====
section
/-!
DEFINITION. The values the block handles (pulses, symbols, messages, transmit requests: `00_scope.md` R15), what a
host can present to it (`Input`), and `Instr`, one constructor per row of `spec/opcode_table.json`.
-/

namespace Sys2Proof

/-- Carrier present (`High`, a mark) or absent (`Low`, a space): R15, R90. -/
inductive Level where
  | high
  | low
deriving DecidableEq, Repr

/-- `Pulse`: a level and a 16-bit unsigned count of microseconds (R15, R90). -/
structure Pulse where
  level : Level
  dur   : BitVec 16
deriving DecidableEq, Repr

/-- `Symbol`: the classification of one pulse (R15, R91). -/
inductive Symbol where
  | zero
  | one
  | preamble
  | invalid
deriving DecidableEq, Repr

/-- `TxSymbol`: what the encoder takes (R15). -/
inductive TxSymbol where
  | preamble
  | zero
  | one
deriving DecidableEq, Repr

/-- `Serial`: exactly five bytes, character 0 (the leftmost written one) first (R15, R63). That each is below `0x80` is
the predicate `serialOk` (R212). -/
structure Serial where
  c0 : Byte
  c1 : Byte
  c2 : Byte
  c3 : Byte
  c4 : Byte
deriving DecidableEq, Repr

/-- `Pin`: exactly four digits, digit 0 the leftmost written one (R15, R63). That each is at most 9 is the predicate
`pinOk` (R107). -/
structure Pin where
  d0 : Nibble
  d1 : Nibble
  d2 : Nibble
  d3 : Nibble
deriving DecidableEq, Repr

/-- The event of an entry sensor, `Open` or `Closed` (R103, R200). -/
inductive EntryEvent where
  | opened
  | closed
deriving DecidableEq, Repr

/-- The event of a motion sensor, `Heartbeat` or `Motion` (R104, R200). -/
inductive MotionEvent where
  | heartbeat
  | motion
deriving DecidableEq, Repr

/-- The event of a keychain remote, `Panic`, `Away` or `Off` (R105, R200). -/
inductive KeychainEvent where
  | panic
  | away
  | off
deriving DecidableEq, Repr

/-- The response of a base station, `Valid` or `Invalid` (R106, R200). -/
inductive PinResponse where
  | valid
  | invalid
deriving DecidableEq, Repr

/-- `Message`: "a closed set of five variants, each a disjoint payload shape" (R200). -/
inductive Message where
  | entrySensor (serial : Serial) (sequence : Nibble) (event : EntryEvent)
  | motionSensor (serial : Serial) (sequence : Nibble) (event : MotionEvent)
  | keychainRemote (serial : Serial) (sequence : Nibble) (event : KeychainEvent)
  | pinRequest (serial : Serial) (sequence : Nibble) (pin : Pin)
  | pinResponse (keypadSerial : Serial) (sequence : Nibble) (baseStationSerial : Serial) (response : PinResponse)
deriving DecidableEq, Repr

/-- A class: one row of the discriminator table, which is one `Message` variant (R20, R95 to R99). -/
inductive FrameClass where
  | entry
  | motion
  | keychain
  | pinreq
  | pinresp
deriving DecidableEq, Repr

/-- A transmit request: the constructor arguments of one variant before any check (R265). Texts are sequences of
character codes (one byte each, log 14); events and responses are members of their enumerations by type. -/
inductive TxReq where
  | entrySensor (serial : Bytes) (sequence : Nat) (event : EntryEvent)
  | motionSensor (serial : Bytes) (sequence : Nat) (event : MotionEvent)
  | keychainRemote (serial : Bytes) (sequence : Nat) (event : KeychainEvent)
  | pinRequest (serial : Bytes) (sequence : Nat) (pin : Bytes)
  | pinResponse (keypadSerial : Bytes) (sequence : Nat) (baseStationSerial : Bytes) (response : PinResponse)
deriving DecidableEq, Repr

/-- A host operation as it stands on the ports before it is decoded (R260 to R269): "transaction, no bit pattern" but
for the pulse, which is a word of 17 bits (R90). -/
inductive Transaction where
  | reset (cfg : Cfg)
  | rxPulse (word : BitVec 17)
  | rxClear
  | txMsg (req : TxReq)
  | status
deriving DecidableEq, Repr

/-- What can be presented to the block for one step, before it is decoded: a pulse word at the Pulse Codec, the bytes of
a frame at the Message Codec (the argument of `parse`), or a host operation. DESIGN CHOICE: log 4. -/
inductive Input where
  | pulse (word : BitVec 17)
  | frame (bytes : Bytes)
  | port (op : Transaction)
deriving DecidableEq, Repr

/-- One constructor per row of `spec/opcode_table.json`: four pulse symbols (R131, R132, R133, R135), six frame rows
(R95 to R99, R167) and five host operations (R260, R261, R263, R264, R269). -/
inductive Instr where
  | zero (p : Pulse)
  | one (p : Pulse)
  | preamble (dur : BitVec 16)
  | invalid (p : Pulse)
  | entry (seq : Nibble) (serial : Serial) (event : Byte) (chk : Byte)
  | motion (seq : Nibble) (serial : Serial) (event : Byte) (chk : Byte)
  | keychain (seq : Nibble) (serial : Serial) (event : Byte) (chk : Byte)
  | pinreq (seq : Nibble) (serial : Serial) (digits : Pin) (chk : Byte)
  | pinresp (seq : Nibble) (serial : Serial) (base : Serial) (response : Byte) (chk : Byte)
  | unknown (frame : Bytes)
  | reset (cfg : Cfg)
  | rxPulse (p : Pulse)
  | rxClear
  | txMsg (req : TxReq)
  | status
deriving DecidableEq, Repr

end Sys2Proof
end

