-- ==== Sys2Proof/Machine/Operands.lean ====
section
/-!
DEFINITION. Every operand form: the bit fields of a byte, the fields of a frame, the fields of a pulse word
(`00_scope.md` R12, `30_encoding.md` R90, R92, R100).
-/

namespace Sys2Proof.Machine

/-- `b[7:4]` (R12). -/
def hiNibble (b : Byte) : Nibble := b.extractLsb' 4 4

/-- `b[3:0]` (R12). -/
def loNibble (b : Byte) : Nibble := b.extractLsb' 0 4

/-- `(hi << 4) | lo` (R12). -/
def packNibbles (hi lo : Nibble) : Byte := hi ++ lo

/-- `b` with bit `i` replaced by `v` (R160). -/
def setBit (b : Byte) (i : Nat) (v : Bool) : Byte :=
  if v then b ||| (1#8 <<< i) else b &&& ~~~(1#8 <<< i)

/-- `frame[i]` (R14). A position the frame does not have is never the value of a field: every rule that reads a field
states the frame's length first. -/
def byteAt (f : Bytes) (i : Nat) : Byte := f.getD i 0

/-- `DEV(f) = f[0]` (R100). -/
def devOf (f : Bytes) : Byte := byteAt f 0

/-- `MT(f) = f[1][7:4]` (R100). -/
def mtOf (f : Bytes) : Nibble := hiNibble (byteAt f 1)

/-- `SEQ(f) = f[1][3:0]` (R100). -/
def seqOf (f : Bytes) : Nibble := loNibble (byteAt f 1)

/-- Five bytes from offset `i`, character 0 at the lowest offset (R63). -/
def serialAt (f : Bytes) (i : Nat) : Serial :=
  ⟨byteAt f i, byteAt f (i + 1), byteAt f (i + 2), byteAt f (i + 3), byteAt f (i + 4)⟩

/-- `SERIAL(f) = f[2..6]` (R100). -/
def serialOf (f : Bytes) : Serial := serialAt f 2

/-- `CHK(f)`, the last byte (R100). -/
def chkOf (f : Bytes) : Byte := byteAt f (f.length - 1)

/-- `BODY(f)`, every byte but the last (R100). -/
def bodyOf (f : Bytes) : Bytes := f.dropLast

/-- `EVENT(f) = f[7]`, formats of 9 bytes (R100). -/
def eventOf (f : Bytes) : Byte := byteAt f 7

/-- `PIN_DIGITS(f)`, format of 10 bytes: digit 0 in the high nibble of the lower offset (R63, R100). -/
def pinDigitsOf (f : Bytes) : Pin :=
  ⟨hiNibble (byteAt f 7), loNibble (byteAt f 7), hiNibble (byteAt f 8), loNibble (byteAt f 8)⟩

/-- `BASE_SERIAL(f) = f[7..11]`, format of 14 bytes (R100). -/
def baseSerialOf (f : Bytes) : Serial := serialAt f 7

/-- `RESPONSE(f) = f[12]`, format of 14 bytes (R100). -/
def responseOf (f : Bytes) : Byte := byteAt f 12

/-- The five bytes of a serial number in frame order. -/
def serialBytes (s : Serial) : Bytes := [s.c0, s.c1, s.c2, s.c3, s.c4]

/-- The two bytes of a PIN: `(d0 << 4) | d1`, `(d2 << 4) | d3` (R107). -/
def pinBytes (p : Pin) : Bytes := [packNibbles p.d0 p.d1, packNibbles p.d2 p.d3]

/-- The 16-bit duration that stands for a measured one of `n` microseconds: "A transceiver that measures a longer
duration presents 65535" (R90, R337). It never wraps. -/
def presentedDuration (n : Nat) : BitVec 16 := BitVec.ofNat 16 (min n 65535)

/-- The level bit of a pulse word: 1 is `High`, 0 is `Low` (R90). -/
def levelBit (l : Level) : BitVec 1 :=
  match l with
  | .high => 1#1
  | .low => 0#1

/-- A pulse as a word of 17 bits: the level, then 16 bits of duration (R90, table row encoding `l` then 16 `d`). -/
def pulseWord (p : Pulse) : BitVec 17 := levelBit p.level ++ p.dur

/-- The pulse a word of 17 bits stands for (R90). -/
def pulseOfWord (w : BitVec 17) : Pulse :=
  ⟨if w.getLsbD 16 then .high else .low, w.extractLsb' 0 16⟩

end Sys2Proof.Machine
end

