-- ==== Sys2Proof/Machine/PulseCodec.lean ====
section
/-!
DEFINITION. The Pulse Codec: one pulse in, one symbol out; one symbol in, one pulse out (`40_pulse_codec.md`
R130 to R141). It keeps no state.
-/

namespace Sys2Proof.Machine

/-- `classify` of R130 under the six window constants: total, local, the level looked at for the Preamble only. -/
def classify (w : Windows) (p : Pulse) : Symbol :=
  if inWindow w.zLo w.zHi p.dur.toNat then .zero
  else if inWindow w.oLo w.oHi p.dur.toNat then .one
  else if p.level = .high ∧ inWindow w.pLo w.pHi p.dur.toNat then .preamble
  else .invalid

/-- `decode` of R134 on a finite sequence: symbol `i` is the class of pulse `i`. -/
def decodePulses (w : Windows) (ps : List Pulse) : List Symbol := ps.map (classify w)

/-- `decode` of R134 on an unbounded sequence. -/
def decodeStream (w : Windows) (ps : Nat → Pulse) (i : Nat) : Symbol := classify w (ps i)

/-- `nominal` of R136. Under `cfg_ok` the value is at most 65535 (R38), so 16 bits hold it. -/
def nominal (c : Cfg) (s : TxSymbol) : BitVec 16 :=
  match s with
  | .zero => BitVec.ofNat 16 c.tZero
  | .one => BitVec.ofNat 16 c.tOne
  | .preamble => BitVec.ofNat 16 c.tPre

/-- Levels alternate, the first pulse `High` (R136). -/
def levelAt (i : Nat) : Level := if i % 2 = 0 then .high else .low

/-- The pulses of `syms`, the first of them at index `i` of the sequence (R136). -/
def encodeFrom (c : Cfg) (i : Nat) (syms : List TxSymbol) : List Pulse :=
  match syms with
  | [] => []
  | s :: rest => ⟨levelAt i, nominal c s⟩ :: encodeFrom c (i + 1) rest

/-- The precondition of R136: `Preamble` occurs only at even indices. -/
def preamblesEvenFrom (i : Nat) (syms : List TxSymbol) : Bool :=
  match syms with
  | [] => true
  | s :: rest => (!(s == .preamble) || i % 2 == 0) && preamblesEvenFrom (i + 1) rest

/-- `encode` of R136; `none` where the precondition fails: "outside the function's domain; a model refuses it"
(R136, R288). -/
def encodePulses (c : Cfg) (syms : List TxSymbol) : Option (List Pulse) :=
  if preamblesEvenFrom 0 syms then some (encodeFrom c 0 syms) else none

/-- The symbol a receiver is meant to see for a sent symbol (R138). -/
def symbolOfTx (s : TxSymbol) : Symbol :=
  match s with
  | .preamble => .preamble
  | .zero => .zero
  | .one => .one

/-- The air time of a pulse sequence in microseconds (R137). -/
def airTime (ps : List Pulse) : Nat := (ps.map (fun p => p.dur.toNat)).sum

end Sys2Proof.Machine
end

