-- ==== Sys2Proof/Machine/Tables.lean ====
section
/-!
DEFINITION. The two lookup tables and the code tables (`30_encoding.md` R95 to R99, R101 to R107, R110, R111;
`10_state.md` R52: constants that no operation can write).
-/

namespace Sys2Proof.Machine

/-- The device class code `DEV` of a class (R101). -/
def devCode (c : FrameClass) : Byte :=
  match c with
  | .entry => 0x05
  | .motion => 0x04
  | .keychain => 0x02
  | .pinreq => 0x01
  | .pinresp => 0x01

/-- The message type code `MT` of a class (R102). -/
def mtCode (c : FrameClass) : Nibble :=
  match c with
  | .entry => 0x1
  | .motion => 0x1
  | .keychain => 0x1
  | .pinreq => 0x2
  | .pinresp => 0x3

/-- The frame length of a class in bytes, checksum byte included (R95 to R99). -/
def classLen (c : FrameClass) : Nat :=
  match c with
  | .entry => 9
  | .motion => 9
  | .keychain => 9
  | .pinreq => 10
  | .pinresp => 14

/-- The length table `frame_len(dev, mt)` (R110); total, `MAX_LEN` for every other pair. -/
def frameLen (dev : Byte) (mt : Nibble) : Nat :=
  if dev = 0x05 ∧ mt = 0x1 then 9
  else if dev = 0x04 ∧ mt = 0x1 then 9
  else if dev = 0x02 ∧ mt = 0x1 then 9
  else if dev = 0x01 ∧ mt = 0x2 then 10
  else if dev = 0x01 ∧ mt = 0x3 then 14
  else maxLen

/-- The dispatch table `class_of(dev, n, mt)` (R111): (`dev`, `n`) selects at most one row, whose message type must then
be `mt`. -/
def classOf (dev : Byte) (n : Nat) (mt : Nibble) : Option FrameClass :=
  if dev = 0x05 ∧ n = 9 ∧ mt = 0x1 then some .entry
  else if dev = 0x04 ∧ n = 9 ∧ mt = 0x1 then some .motion
  else if dev = 0x02 ∧ n = 9 ∧ mt = 0x1 then some .keychain
  else if dev = 0x01 ∧ n = 10 ∧ mt = 0x2 then some .pinreq
  else if dev = 0x01 ∧ n = 14 ∧ mt = 0x3 then some .pinresp
  else none

/-- `class_of` of a frame value: its `DEV`, its length, its `MT` (R203). -/
def classOfFrame (f : Bytes) : Option FrameClass := classOf (devOf f) f.length (mtOf f)

/-- Entry sensor event codes (R103). -/
def entryCode (e : EntryEvent) : Byte :=
  match e with
  | .opened => 0x01
  | .closed => 0x02

/-- The entry sensor event of a code; every other code is out of domain (R103). -/
def entryEventOf (b : Byte) : Option EntryEvent :=
  if b = 0x01 then some .opened else if b = 0x02 then some .closed else none

/-- Motion sensor event codes (R104). -/
def motionCode (e : MotionEvent) : Byte :=
  match e with
  | .heartbeat => 0x00
  | .motion => 0x01

/-- The motion sensor event of a code (R104). -/
def motionEventOf (b : Byte) : Option MotionEvent :=
  if b = 0x00 then some .heartbeat else if b = 0x01 then some .motion else none

/-- Keychain remote event codes (R105). -/
def keychainCode (e : KeychainEvent) : Byte :=
  match e with
  | .panic => 0x01
  | .away => 0x02
  | .off => 0x03

/-- The keychain remote event of a code (R105). -/
def keychainEventOf (b : Byte) : Option KeychainEvent :=
  if b = 0x01 then some .panic else if b = 0x02 then some .away else if b = 0x03 then some .off else none

/-- PIN response codes (R106). -/
def responseCode (r : PinResponse) : Byte :=
  match r with
  | .valid => 0x01
  | .invalid => 0x02

/-- The PIN response of a code (R106). -/
def pinResponseOf (b : Byte) : Option PinResponse :=
  if b = 0x01 then some .valid else if b = 0x02 then some .invalid else none

/-- `serial_ok` of R212: five 7-bit codes. -/
def serialOk (s : Serial) : Bool :=
  decide (s.c0.toNat < 0x80) && decide (s.c1.toNat < 0x80) && decide (s.c2.toNat < 0x80)
    && decide (s.c3.toNat < 0x80) && decide (s.c4.toNat < 0x80)

/-- "each nibble must be 0-9" (R107, R210). -/
def pinOk (p : Pin) : Bool :=
  decide (p.d0.toNat ≤ 9) && decide (p.d1.toNat ≤ 9) && decide (p.d2.toNat ≤ 9) && decide (p.d3.toNat ≤ 9)

/-- The field domains of a `Message` that its type does not carry (R201): serial bytes below `0x80`, PIN digits at
most 9. -/
def messageOk (m : Message) : Bool :=
  match m with
  | .entrySensor s _ _ => serialOk s
  | .motionSensor s _ _ => serialOk s
  | .keychainRemote s _ _ => serialOk s
  | .pinRequest s _ p => serialOk s && pinOk p
  | .pinResponse ks _ bs _ => serialOk ks && serialOk bs

end Sys2Proof.Machine
end

