-- ==== Sys2Proof/WellFormed.lean ====
section
/-!
DEFINITION. Which terms of `Instr` stand for something a host can present, under the windows of the instance: a pulse
symbol's pulse classifies as that symbol (R131, R132, R133, R135), an `UNKNOWN` frame matches no class row (R167,
R206). The five class rows and the port rows are well formed with every operand: a transmit request holds its arguments
"before any check" (R265).
-/

namespace Sys2Proof

/-- The port's width for a text argument: length 0..255 (R265). -/
def textFits (t : Bytes) : Bool := decide (t.length ≤ 255)

/-- The port's width for a sequence argument: 0..255 (R265). -/
def sequenceFits (n : Nat) : Bool := decide (n ≤ 255)

/-- Every text of the request fits its port (R265). -/
def TxReq.textsFit (r : TxReq) : Bool :=
  match r with
  | .entrySensor s _ _ => textFits s
  | .motionSensor s _ _ => textFits s
  | .keychainRemote s _ _ => textFits s
  | .pinRequest s _ p => textFits s && textFits p
  | .pinResponse ks _ bs _ => textFits ks && textFits bs

/-- The sequence argument of a request. -/
def TxReq.sequenceArg (r : TxReq) : Nat :=
  match r with
  | .entrySensor _ n _ => n
  | .motionSensor _ n _ => n
  | .keychainRemote _ n _ => n
  | .pinRequest _ n _ => n
  | .pinResponse _ n _ _ => n

/-- The request is inside the port's width. A request outside it is no different to the constructors, which "reject
everything outside their domains whatever the bound" (R265; log 11). -/
def TxReq.fitsPort (r : TxReq) : Bool := r.textsFit && sequenceFits r.sequenceArg

/-- The instruction is well formed on an instance with the windows `w`. -/
def Instr.wf (w : Windows) (i : Instr) : Bool :=
  match i with
  | .zero p => decide (Machine.classify w p = .zero)
  | .one p => decide (Machine.classify w p = .one)
  | .preamble d => decide (Machine.classify w ⟨.high, d⟩ = .preamble)
  | .invalid p => decide (Machine.classify w p = .invalid)
  | .entry _ _ _ _ => true
  | .motion _ _ _ _ => true
  | .keychain _ _ _ _ => true
  | .pinreq _ _ _ _ => true
  | .pinresp _ _ _ _ _ => true
  | .unknown f => decide (Machine.classOfFrame f = none)
  | .reset _ => true
  | .rxPulse _ => true
  | .rxClear => true
  | .txMsg _ => true
  | .status => true

end Sys2Proof
end

