-- ==== Sys2Proof/Decode.lean ====
section
/-!
DEFINITION. From what is presented to the block to the instruction it stands for, total on everything a host
can present; the encoder, written from the same rows; and the host's view of a table word (`30_encoding.md` R90 to R111, R118).
-/

namespace Sys2Proof

/-- The row of a pulse: the symbol it classifies as (R91, R118). -/
def decodePulse (w : Windows) (p : Pulse) : Instr :=
  match Machine.classify w p with
  | .zero => .zero p
  | .one => .one p
  | .preamble => .preamble p.dur
  | .invalid => .invalid p

/-- The row of a frame: the class its `DEV`, length and `MT` select, else `UNKNOWN`; its fields by R100. -/
def decodeFrame (f : Bytes) : Instr :=
  match Machine.classOfFrame f with
  | some .entry => .entry (Machine.seqOf f) (Machine.serialOf f) (Machine.eventOf f) (Machine.chkOf f)
  | some .motion => .motion (Machine.seqOf f) (Machine.serialOf f) (Machine.eventOf f) (Machine.chkOf f)
  | some .keychain => .keychain (Machine.seqOf f) (Machine.serialOf f) (Machine.eventOf f) (Machine.chkOf f)
  | some .pinreq => .pinreq (Machine.seqOf f) (Machine.serialOf f) (Machine.pinDigitsOf f) (Machine.chkOf f)
  | some .pinresp =>
    .pinresp (Machine.seqOf f) (Machine.serialOf f) (Machine.baseSerialOf f) (Machine.responseOf f) (Machine.chkOf f)
  | none => .unknown f

/-- The row of a host operation (R260 to R269). -/
def decodePort (t : Transaction) : Instr :=
  match t with
  | .reset c => .reset c
  | .rxPulse w => .rxPulse (Machine.pulseOfWord w)
  | .rxClear => .rxClear
  | .txMsg r => .txMsg r
  | .status => .status

/-- The instruction that a presented input stands for on an instance with the windows `w`. It rejects nothing: a pulse of
no window is `INVALID` (R135), a frame of no class `UNKNOWN` (R206), and a transmit request of any size is rejected by
its constructor and not here (R213, R265). -/
def decode (w : Windows) (x : Input) : Instr :=
  match x with
  | .pulse word => decodePulse w (Machine.pulseOfWord word)
  | .frame f => decodeFrame f
  | .port t => decodePort t

/-- Bytes 0 and 1 of a frame of class `c` with sequence `q`: `DEV`, then `MT` and `SEQ` (R92). -/
def headerBytes (c : FrameClass) (q : Nibble) : Bytes :=
  [Machine.devCode c, Machine.packNibbles (Machine.mtCode c) q]

/-- The bytes of a 9-byte frame (R95, R96, R97). -/
def frame9 (c : FrameClass) (q : Nibble) (s : Serial) (event chk : Byte) : Bytes :=
  headerBytes c q ++ Machine.serialBytes s ++ [event, chk]

/-- The bytes of a `PINREQ` frame (R98). -/
def frame10 (q : Nibble) (s : Serial) (p : Pin) (chk : Byte) : Bytes :=
  headerBytes .pinreq q ++ Machine.serialBytes s ++ Machine.pinBytes p ++ [chk]

/-- The bytes of a `PINRESP` frame (R99). -/
def frame14 (q : Nibble) (s base : Serial) (response chk : Byte) : Bytes :=
  headerBytes .pinresp q ++ Machine.serialBytes s ++ Machine.serialBytes base ++ [response, chk]

/-- The encoder: what a host presents for an instruction, written from the rows' patterns. -/
def encode (i : Instr) : Input :=
  match i with
  | .zero p => .pulse (Machine.pulseWord p)
  | .one p => .pulse (Machine.pulseWord p)
  | .preamble d => .pulse (Machine.pulseWord ⟨.high, d⟩)
  | .invalid p => .pulse (Machine.pulseWord p)
  | .entry q s e k => .frame (frame9 .entry q s e k)
  | .motion q s e k => .frame (frame9 .motion q s e k)
  | .keychain q s e k => .frame (frame9 .keychain q s e k)
  | .pinreq q s p k => .frame (frame10 q s p k)
  | .pinresp q s b r k => .frame (frame14 q s b r k)
  | .unknown f => .frame f
  | .reset c => .port (.reset c)
  | .rxPulse p => .port (.rxPulse (Machine.pulseWord p))
  | .rxClear => .port .rxClear
  | .txMsg r => .port (.txMsg r)
  | .status => .port .status

/-- The frame bytes of a table word: bits 15..0 are the header `(f[0] << 8) | f[1]` (R118), byte `k` from 2 on is bits
`8k+7..8k`, and the frame has the length its header announces (R94). DESIGN CHOICE: log 9. -/
def tableFrame (w : Nat) : Bytes :=
  let b0 : Byte := BitVec.ofNat 8 (w / 256)
  let b1 : Byte := BitVec.ofNat 8 w
  let n := Machine.frameLen b0 (Machine.hiNibble b1)
  b0 :: b1 :: (List.range (n - 2)).map (fun k => BitVec.ofNat 8 (w / 2 ^ (8 * (k + 2))))

/-- What is presented to the block for a table word of `nbits` bits: 17 bits (24 in whole bytes) are a pulse word, 16,
72, 80 and 112 bits are a frame. The port rows have no bit pattern. DESIGN CHOICE: log 9. -/
def tableInput (nbits w : Nat) : Option Input :=
  if nbits = 16 ∨ nbits = 72 ∨ nbits = 80 ∨ nbits = 112 then some (.frame (tableFrame w))
  else if (nbits = 17 ∨ nbits = 24) ∧ w < 2 ^ 17 then some (.pulse (BitVec.ofNat 17 w))
  else none

/-- The instruction the decoder reads from a table word, on an instance with the default windows (those after reset). -/
def decodeTableWord (nbits w : Nat) : Option Instr :=
  (tableInput nbits w).map (decode (Machine.windowsOf Machine.cfgDefault))

end Sys2Proof
end

