-- ==== Sys2Proof/Machine/Checksum.lean ====
section
/-!
DEFINITION. The checksum unit's reductions and the properties of a reduction that claims may assume
(`41_frame_assembler.md` R172 to R174, `10_state.md` R42). A reduction is an argument of every function below that
uses one: "the same function is used on transmit and receive" (R172).
-/

namespace Sys2Proof.Machine

/-- `sum8`: the sum of the bytes modulo 256, carries dropped (R173, R174). -/
def sum8 (b : Bytes) : Byte := b.foldl (fun acc x => acc + x) 0

/-- `xor8`: the exclusive-or of the bytes (R173). -/
def xor8 (b : Bytes) : Byte := b.foldl (fun acc x => acc ^^^ x) 0

/-- One of the eight shifts of `step8`: `(c << 1) xor 0x07` if bit 7 of `c` is 1, else `c << 1`, modulo 256 (R173). -/
def crcShift (c : Byte) : Byte := if c.getLsbD 7 then (c <<< 1) ^^^ 0x07#8 else c <<< 1

/-- `step8`: eight shifts (R173). -/
def crcStep8 (c : Byte) : Byte :=
  crcShift (crcShift (crcShift (crcShift (crcShift (crcShift (crcShift (crcShift c)))))))

/-- `crc8`: polynomial `0x07`, initial value 0, most significant bit first, no reflection, no final exclusive-or
(R173). -/
def crc8 (b : Bytes) : Byte := b.foldl (fun c x => crcStep8 (c ^^^ x)) 0

/-- The function a checksum name stands for (R38, R173). -/
def checksumOf (f : ChecksumFn) : Bytes → Byte :=
  match f with
  | .sum8 => sum8
  | .xor8 => xor8
  | .crc8 => crc8
  | .custom n => Config.customChecksum n

/-- `b` with bit `j` of byte `i` flipped. -/
def flipBit (b : Bytes) (i j : Nat) : Bytes := b.modify i (fun x => x ^^^ (1#8 <<< j))

/-- `chk_single_bit(f)` of R42: flipping exactly one bit of a non-empty byte sequence changes the reduction. -/
def ChkSingleBit (f : Bytes → Byte) : Prop :=
  ∀ (b : Bytes) (i j : Nat), i < b.length → j < 8 → f (flipBit b i j) ≠ f b

end Sys2Proof.Machine
end

