-- ==== Sys2Proof/Machine/State.lean ====
section
/-!
DEFINITION. The machine's state as plain data, its reset value, the values it hands to the host, and why a step can
stop (`10_state.md` R30 to R38, R49; `60_exceptions.md` R280; `00_scope.md` R15).
-/

namespace Sys2Proof.Machine

/-- `RX_ST`: the two stored states of the frame state machine (R31). -/
inductive RxSt where
  | waiting
  | collecting
deriving DecidableEq, Repr

/-- `BUF` as the list of its cells that differ from `Memory.blank`, addresses strictly rising (R48, log 1). -/
abbrev Memory := List Host.Cell

/-- What an unlisted address reads as: `BUF` is all zero after reset and after every clear (R35, R49). -/
def Memory.blank : Byte := 0

/-- The number of bytes of the one storage space: addresses 0..13 (R48). -/
def Memory.size : Nat := maxLen

/-- `RxState`, "the whole retained state of one receive channel" (R30): `RX_ST` 1 bit, `NBITS` 7 bits, `EXP_LEN` 4 bits,
`BUF` 14 bytes. -/
structure RxState where
  rxSt   : RxSt
  nbits  : BitVec 7
  expLen : BitVec 4
  buf    : Memory
deriving DecidableEq, Repr

/-- `RxState.idle`: the scanning state, the one value of R36 (a) and the reset value (R49). -/
def RxState.idle : RxState := { rxSt := .waiting, nbits := 0, expLen := 0, buf := [] }

/-- `start`: collecting with no bit yet (R160). -/
def RxState.start : RxState := { rxSt := .collecting, nbits := 0, expLen := 0, buf := [] }

/-- The cause of a `TimingInvalid` (R280, R281). -/
inductive Cause where
  | invalidPulse
  | unexpectedPreamble
deriving DecidableEq, Repr

/-- Field identifiers of `InvalidField` and `ConstructionError` (R202). -/
inductive Field where
  | serial
  | sequence
  | event
  | pin
  | baseSerial
  | response
deriving DecidableEq, Repr

/-- `Failure`: the closed set of six kinds of R280. They are values handed to the host, not faults of the machine
(R293). `preambleNotFound` is never emitted (R282). -/
inductive Failure where
  | timingInvalid (cause : Cause) (collecting : Bool) (nbits : BitVec 7)
  | preambleNotFound
  | checksumMismatch (frame : Bytes)
  | unrecognizedFormat (frame : Bytes)
  | invalidField (field : Field) (frame : Bytes)
  | constructionError (field : Field)
deriving DecidableEq, Repr

/-- `AsmResult` (R171). -/
inductive AsmResult where
  | ok (frame : Bytes)
  | fail (f : Failure)
deriving DecidableEq, Repr

/-- `RxResult` (R15, R262). -/
inductive RxResult where
  | ok (m : Message)
  | fail (f : Failure)
deriving DecidableEq, Repr

/-- What `TX_MSG` emits: the pulses of one frame, or a `ConstructionError` (R264). -/
inductive TxResult where
  | pulses (ps : List Pulse)
  | fail (f : Failure)
deriving DecidableEq, Repr

/-- The status view (`RX_ST`, `NBITS`, `EXP_LEN`) of R43 and R269. -/
structure Status where
  rxSt   : RxSt
  nbits  : BitVec 7
  expLen : BitVec 4
deriving DecidableEq, Repr

/-- Why a step stops with a fault. The spec has no machine fault (R293); this one guards the storage space (log 1). -/
inductive Fault where
  /-- Raised by `receive` when a data bit would go to a byte of `BUF` that does not exist (`NBITS` at 112 or above),
  which no state that meets R36 reaches. Safe: a true claim about such a state may become unprovable. -/
  | bufOutOfRange
deriving DecidableEq, Repr

/-- Why a step is refused. -/
inductive Refusal where
  /-- Raised by `exec` for an instruction without a meaning yet. Safe. -/
  | notModelled (mnemonic : String)
  /-- Raised by `execReset` when `cfg_ok` fails: "construction with any other Cfg is refused and no instance exists"
  (R41, R260, R288, R321). Safe: log 8. -/
  | cfgNotOk
  /-- Raised by `execTxMsg` if `encode` met a Preamble symbol at an odd index, "which no operation of the block can
  request" (R136, R288). Safe: log 16. -/
  | preambleAtOddIndex
deriving DecidableEq, Repr

/-- One instance of the block: its configuration with the derived constants (R38, R39, R49), its receive state (R30),
its result ports (R49, R261, R264, R269; what stands on them is the last operation's output, log 3), and the model's
own field `input`, the host's requests not yet performed (log 2). -/
structure State where
  cfg       : Cfg
  win       : Windows
  rx        : RxState
  rxResult  : Option RxResult
  txResult  : Option TxResult
  statusOut : Option Status
  input     : List Input
deriving DecidableEq, Repr

/-- The state right after `RESET(Cfg.default)`: the table of R49, nothing pending on the result ports. That reset
constructs with `Cfg.default` is the model's choice (log 7). -/
def State.reset : State :=
  { cfg := cfgDefault
    win := windowsOf cfgDefault
    rx := RxState.idle
    rxResult := none
    txResult := none
    statusOut := none
    input := [] }

end Sys2Proof.Machine
end

