-- ==== Sys2Proof/Machine/Ops.lean ====
section
/-!
DEFINITION. The named operations over the storage space, the receive state and the result ports, among them the one
operation that every failure goes through (`00_scope.md` R14, `20_memory.md` R60 to R67, `60_exceptions.md` R283).
-/

namespace Sys2Proof.Machine

/-- `BUF[i]`, the block's `MemRead(i, 1)` (R14). -/
def Memory.read (m : Memory) (a : Nat) : Byte :=
  match m with
  | [] => Memory.blank
  | (b, v) :: rest => if a = b then v else Memory.read rest a

/-- `BUF[i] <- v`, the block's `MemWrite(i, 1, v)` (R14), keeping the canonical form: the cell of a blank byte is
removed. -/
def Memory.write (m : Memory) (a : Nat) (v : Byte) : Memory :=
  match m with
  | [] => if v = Memory.blank then [] else [(a, v)]
  | (b, w) :: rest =>
    if a < b then (if v = Memory.blank then (b, w) :: rest else (a, v) :: (b, w) :: rest)
    else if a = b then (if v = Memory.blank then rest else (a, v) :: rest)
    else (b, w) :: Memory.write rest a v

/-- `MemRead(a, n)`: `n` bytes from address `a`, byte `a` first (R14). -/
def Memory.readBytes (m : Memory) (a n : Nat) : Bytes := (List.range n).map (fun i => Memory.read m (a + i))

/-- The canonical form: addresses strictly rising and inside the storage space, no cell with the blank byte. -/
def Memory.wf (m : Memory) : Bool :=
  match m with
  | [] => true
  | (a, v) :: rest =>
    decide (v ≠ Memory.blank) && decide (a < Memory.size) && rest.all (fun c => decide (a < c.1)) && Memory.wf rest

/-- Bit `k` of the frame in `BUF`: bit `7 - (k mod 8)` of byte `k div 8` (R35, R62). -/
def Memory.frameBit (m : Memory) (k : Nat) : Bool := (Memory.read m (k / 8)).getLsbD (7 - k % 8)

/-- `BUF` with bit `k` of the frame replaced by `v` (R160, R164). -/
def Memory.setFrameBit (m : Memory) (k : Nat) (v : Bool) : Memory :=
  Memory.write m (k / 8) (setBit (Memory.read m (k / 8)) (7 - k % 8) v)

/-- The status view of a receive state (R43). -/
def RxState.status (r : RxState) : Status := { rxSt := r.rxSt, nbits := r.nbits, expLen := r.expLen }

/-- Nothing stands on the result ports: the output of the operation before is gone (R262: "a host that ignores a result
has lost it"; log 3). -/
def State.clearPorts (s : State) : State := { s with rxResult := none, txResult := none, statusOut := none }

/-- `RxState <- r` with no output (R261). -/
def State.setRx (r : RxState) (s : State) : State :=
  { s with rx := r, rxResult := none, txResult := none, statusOut := none }

/-- `emit r` on `rx_result`, the receive state untouched (R14, R205). -/
def State.emitRx (r : RxResult) (s : State) : State :=
  { s with rxResult := some r, txResult := none, statusOut := none }

/-- `emit r` on `tx_result` (R14, R264). -/
def State.emitTx (r : TxResult) (s : State) : State :=
  { s with rxResult := none, txResult := some r, statusOut := none }

/-- The output of `STATUS` (R269). -/
def State.emitStatus (s : State) : State :=
  { s with rxResult := none, txResult := none, statusOut := some s.rx.status }

/-- `Cfg <- c; derive the six window constants; RxState <- idle`, no output (R260). -/
def State.construct (c : Cfg) (s : State) : State :=
  { s with cfg := c, win := windowsOf c, rx := RxState.idle, rxResult := none, txResult := none, statusOut := none }

/-- The host's request at the front is consumed (R47 (a): "not retained"). -/
def State.popInput (rest : List Input) (s : State) : State := { s with input := rest }

/-- `RxState` after a failure of an operation: the table of R283 (`ConstructionError`: unchanged). -/
def failureRx (f : Failure) (r : RxState) : RxState :=
  match f with
  | .timingInvalid .invalidPulse _ _ => RxState.idle
  | .timingInvalid .unexpectedPreamble _ _ => RxState.start
  | .checksumMismatch _ => RxState.idle
  | .unrecognizedFormat _ => RxState.idle
  | .invalidField _ _ => RxState.idle
  | .preambleNotFound => r
  | .constructionError _ => r

/-- `raise F`, the block's taking of an exception, the one operation that every failure of an operation goes through: the
failure on the port that the table of R280 names for its kind and the state change of R283, nothing else (R14, R291).
No state is saved and control goes nowhere (R283); there is no return and no nesting (R292). `PreambleNotFound` has no
port: it is never raised (R282). -/
def State.raise (f : Failure) (s : State) : State :=
  match f with
  | .timingInvalid _ _ _ => (s.setRx (failureRx f s.rx)).emitRx (.fail f)
  | .preambleNotFound => s.clearPorts
  | .checksumMismatch _ => (s.setRx (failureRx f s.rx)).emitRx (.fail f)
  | .unrecognizedFormat _ => (s.setRx (failureRx f s.rx)).emitRx (.fail f)
  | .invalidField _ _ => (s.setRx (failureRx f s.rx)).emitRx (.fail f)
  | .constructionError _ => s.emitTx (.fail f)

/-- The state a step's outcome goes on in, if it goes on. -/
def nextOf (o : Host.Outcome State Fault Refusal) : Option State :=
  match o with
  | .next s => some s
  | .fault _ => none
  | .refused _ => none

end Sys2Proof.Machine
end

