-- ==== Sys2Proof/Machine/FrameAssembler.lean ====
section
/-!
DEFINITION. The Frame Assembler: frame synchronizer, checksum test and frame serialiser (`41_frame_assembler.md` R160
to R177). A reduction `chk : Bytes → Byte` is an argument, as the source's `disassemble(bytes, checksum_fn)` has it.
-/

namespace Sys2Proof.Machine

/-- `validate` of R169: the last byte against the reduction of the bytes before it. -/
def validate (chk : Bytes → Byte) (f : Bytes) : AsmResult :=
  if chk (bodyOf f) = chkOf f then .ok f else .fail (.checksumMismatch f)

/-- `BUF'` of R160: the buffer with bit `NBITS` of the frame replaced by `b`. -/
def bufAfter (r : RxState) (b : Bool) : Memory := Memory.setFrameBit r.buf r.nbits.toNat b

/-- `e'` of R160: the expected length after the data bit `b`, learnt from the header in the step that completes it (R164;
`MAX_LEN` for an unknown one, R167). -/
def lenAfter (r : RxState) (b : Bool) : Nat :=
  if r.nbits.toNat + 1 = 16 then
    frameLen (Memory.read (bufAfter r b) 0) (hiNibble (Memory.read (bufAfter r b) 1))
  else r.expLen.toNat

/-- The data bit `b` is the last of the frame: `e' != 0 and n' = 8 * e'` (R160, R166). -/
def completes (r : RxState) (b : Bool) : Bool :=
  decide (lenAfter r b ≠ 0) && decide (r.nbits.toNat + 1 = 8 * lenAfter r b)

/-- `BUF'[0 .. e' - 1]`, the whole frame with its last bit (R160, R166). -/
def frameAfter (r : RxState) (b : Bool) : Bytes := Memory.readBytes (bufAfter r b) 0 (lenAfter r b)

/-- The arm of `asm_step` for a data bit `b`: skipped while scanning (R163), shifted in while collecting (R164), the
frame completed by its last bit (R166). -/
def shiftIn (chk : Bytes → Byte) (r : RxState) (b : Bool) : RxState × Option AsmResult :=
  match r.rxSt with
  | .waiting => (r, none)
  | .collecting =>
    if completes r b then (RxState.idle, some (validate chk (frameAfter r b)))
    else
      ({ rxSt := .collecting
         nbits := BitVec.ofNat 7 (r.nbits.toNat + 1)
         expLen := BitVec.ofNat 4 (lenAfter r b)
         buf := bufAfter r b }, none)

/-- `asm_step` of R160. -/
def asmStep (chk : Bytes → Byte) (r : RxState) (sym : Symbol) : RxState × Option AsmResult :=
  match sym with
  | .invalid =>
    (RxState.idle, some (.fail (.timingInvalid .invalidPulse (decide (r.rxSt = .collecting)) r.nbits)))
  | .preamble =>
    match r.rxSt with
    | .waiting => (RxState.start, none)
    | .collecting => (RxState.start, some (.fail (.timingInvalid .unexpectedPreamble true r.nbits)))
  | .zero => shiftIn chk r false
  | .one => shiftIn chk r true

/-- The results of the symbols from a state, and the state they leave (R170, `go`). -/
def assembleFrom (chk : Bytes → Byte) (r : RxState) (syms : List Symbol) : List AsmResult × RxState :=
  match syms with
  | [] => ([], r)
  | sym :: rest =>
    let step := asmStep chk r sym
    let tail := assembleFrom chk step.1 rest
    (step.2.toList ++ tail.1, tail.2)

/-- `assemble` of R170: the results of the fold from `idle`. -/
def assemble (chk : Bytes → Byte) (syms : List Symbol) : List AsmResult := (assembleFrom chk RxState.idle syms).1

/-- The eight data symbols of a byte, bit 7 first (R61, R175). -/
def byteSymbols (b : Byte) : List TxSymbol :=
  (List.range 8).map (fun j => if b.getLsbD (7 - j) then .one else .zero)

/-- `bits` of R175. -/
def bits (f : Bytes) : List TxSymbol := f.flatMap byteSymbols

/-- `frame_of` of R177: the body and its checksum byte. -/
def frameOf (chk : Bytes → Byte) (body : Bytes) : Bytes := body ++ [chk body]

/-- `disassemble` of R176: one Preamble symbol, then the bits of the frame. -/
def disassemble (body : Bytes) (chk : Bytes → Byte) : List TxSymbol := .preamble :: bits (frameOf chk body)

end Sys2Proof.Machine
end

