-- ==== Sys2Proof/Machine/MessageCodec.lean ====
section
/-!
DEFINITION. The Message Codec: dispatcher, five unpackers, five constructors, five packers (`42_message_codec.md` R203
to R228).
-/

namespace Sys2Proof.Machine

/-- `unpack_entry` (R207). -/
def unpackEntry (f : Bytes) : RxResult :=
  if serialOk (serialOf f) then
    match entryEventOf (eventOf f) with
    | some e => .ok (.entrySensor (serialOf f) (seqOf f) e)
    | none => .fail (.invalidField .event f)
  else .fail (.invalidField .serial f)

/-- `unpack_motion` (R208). -/
def unpackMotion (f : Bytes) : RxResult :=
  if serialOk (serialOf f) then
    match motionEventOf (eventOf f) with
    | some e => .ok (.motionSensor (serialOf f) (seqOf f) e)
    | none => .fail (.invalidField .event f)
  else .fail (.invalidField .serial f)

/-- `unpack_keychain` (R209). -/
def unpackKeychain (f : Bytes) : RxResult :=
  if serialOk (serialOf f) then
    match keychainEventOf (eventOf f) with
    | some e => .ok (.keychainRemote (serialOf f) (seqOf f) e)
    | none => .fail (.invalidField .event f)
  else .fail (.invalidField .serial f)

/-- `unpack_pinreq` (R210). -/
def unpackPinreq (f : Bytes) : RxResult :=
  if serialOk (serialOf f) then
    if pinOk (pinDigitsOf f) then .ok (.pinRequest (serialOf f) (seqOf f) (pinDigitsOf f))
    else .fail (.invalidField .pin f)
  else .fail (.invalidField .serial f)

/-- `unpack_pinresp` (R211). -/
def unpackPinresp (f : Bytes) : RxResult :=
  if serialOk (serialOf f) then
    if serialOk (baseSerialOf f) then
      match pinResponseOf (responseOf f) with
      | some r => .ok (.pinResponse (serialOf f) (seqOf f) (baseSerialOf f) r)
      | none => .fail (.invalidField .response f)
    else .fail (.invalidField .baseSerial f)
  else .fail (.invalidField .serial f)

/-- `dispatch` of R203, the multiplexer; the arm for no class is R206. -/
def dispatch (f : Bytes) : RxResult :=
  match classOfFrame f with
  | some .entry => unpackEntry f
  | some .motion => unpackMotion f
  | some .keychain => unpackKeychain f
  | some .pinreq => unpackPinreq f
  | some .pinresp => unpackPinresp f
  | none => .fail (.unrecognizedFormat f)

/-- The checksum test before anything is made of a frame (R205, R290 item 3). -/
def checked (chk : Bytes → Byte) (f : Bytes) (r : RxResult) : RxResult :=
  if chk (bodyOf f) = chkOf f then r else .fail (.checksumMismatch f)

/-- A length that no frame can have: under 2 or above `MAX_LEN` (R205). -/
def lengthOut (f : Bytes) : Bool := decide (f.length < hdrLen) || decide (maxLen < f.length)

/-- `parse` of R205: length, then checksum, then discriminator, then fields. -/
def parse (chk : Bytes → Byte) (f : Bytes) : RxResult :=
  if lengthOut f then .fail (.unrecognizedFormat f) else checked chk f (dispatch f)

/-- A digit `0x30..0x39` (R219, R220). -/
def isDigitCode (b : Byte) : Bool := decide (0x30 ≤ b.toNat) && decide (b.toNat ≤ 0x39)

/-- An upper-case letter `0x41..0x5A` (R219). -/
def isUpperCode (b : Byte) : Bool := decide (0x41 ≤ b.toNat) && decide (b.toNat ≤ 0x5A)

/-- `serial_arg_ok` of R219, with the `Serial` that an accepted text is. -/
def serialArg (t : Bytes) : Option Serial :=
  match t with
  | [a, b, c, d, e] =>
    if [a, b, c, d, e].all (fun x => isDigitCode x || isUpperCode x) then some ⟨a, b, c, d, e⟩ else none
  | _ => none

/-- The digit that a character code `0x30..0x39` is (R220). -/
def digitOf (b : Byte) : Nibble := BitVec.ofNat 4 (b.toNat - 0x30)

/-- `pin_arg_ok` of R220, with the `Pin` that an accepted text is. -/
def pinArg (t : Bytes) : Option Pin :=
  match t with
  | [a, b, c, d] =>
    if [a, b, c, d].all isDigitCode then some ⟨digitOf a, digitOf b, digitOf c, digitOf d⟩ else none
  | _ => none

/-- `seq_arg_ok` of R221, with the nibble that an accepted number is; never reduced modulo 16. -/
def seqArg (n : Nat) : Option Nibble := if n ≤ 15 then some (BitVec.ofNat 4 n) else none

/-- The checks on serial and sequence that the first four constructors share, in written order (R213). -/
def withSerialSeq (t : Bytes) (n : Nat) (k : Serial → Nibble → Except Failure Message) : Except Failure Message :=
  match serialArg t with
  | none => .error (.constructionError .serial)
  | some s =>
    match seqArg n with
    | none => .error (.constructionError .sequence)
    | some q => k s q

/-- `EntrySensorMessage(serial, sequence, event)` (R214). -/
def constructEntry (t : Bytes) (n : Nat) (e : EntryEvent) : Except Failure Message :=
  withSerialSeq t n (fun s q => .ok (.entrySensor s q e))

/-- `MotionSensorMessage(serial, sequence, event)` (R215). -/
def constructMotion (t : Bytes) (n : Nat) (e : MotionEvent) : Except Failure Message :=
  withSerialSeq t n (fun s q => .ok (.motionSensor s q e))

/-- `KeychainRemoteMessage(serial, sequence, event)` (R216). -/
def constructKeychain (t : Bytes) (n : Nat) (e : KeychainEvent) : Except Failure Message :=
  withSerialSeq t n (fun s q => .ok (.keychainRemote s q e))

/-- `KeypadDisarmPinRequest(serial, sequence, pin)` (R217). -/
def constructPinRequest (t : Bytes) (n : Nat) (p : Bytes) : Except Failure Message :=
  withSerialSeq t n (fun s q =>
    match pinArg p with
    | none => .error (.constructionError .pin)
    | some d => .ok (.pinRequest s q d))

/-- `BaseStationKeypadDisarmPinResponse(keypadSerial, sequence, baseStationSerial, response)` (R218). -/
def constructPinResponse (t : Bytes) (n : Nat) (b : Bytes) (r : PinResponse) : Except Failure Message :=
  withSerialSeq t n (fun s q =>
    match serialArg b with
    | none => .error (.constructionError .baseSerial)
    | some bs => .ok (.pinResponse s q bs r))

/-- `construct(req)` of R264: the constructor of the request's variant. -/
def construct (r : TxReq) : Except Failure Message :=
  match r with
  | .entrySensor t n e => constructEntry t n e
  | .motionSensor t n e => constructMotion t n e
  | .keychainRemote t n e => constructKeychain t n e
  | .pinRequest t n p => constructPinRequest t n p
  | .pinResponse t n b x => constructPinResponse t n b x

/-- Bytes 0 to 6 of a body: `DEV`, `MT` and `SEQ`, the serial number (R92). -/
def bodyHead (c : FrameClass) (q : Nibble) (s : Serial) : Bytes :=
  [devCode c, packNibbles (mtCode c) q] ++ serialBytes s

/-- `body` of R222, per variant by R224 to R228. -/
def body (m : Message) : Bytes :=
  match m with
  | .entrySensor s q e => bodyHead .entry q s ++ [entryCode e]
  | .motionSensor s q e => bodyHead .motion q s ++ [motionCode e]
  | .keychainRemote s q e => bodyHead .keychain q s ++ [keychainCode e]
  | .pinRequest s q p => bodyHead .pinreq q s ++ pinBytes p
  | .pinResponse ks q bs r => bodyHead .pinresp q ks ++ serialBytes bs ++ [responseCode r]

/-- `serialize` of R223: the bytes that go on the wire. -/
def serialize (chk : Bytes → Byte) (m : Message) : Bytes := frameOf chk (body m)

end Sys2Proof.Machine
end

