-- ==== Sys2Proof/Machine/FrameRows.lean ====
section
/-!
DEFINITION. The meanings of the six frame rows: `parse` of the frame's bytes (`42_message_codec.md` R205 to R211), its
result on `rx_result`, the receive state neither read nor written (R205, R283: "from `parse` on bytes: unchanged").
That a frame row is presented at this boundary is log 4.
-/

namespace Sys2Proof.Machine

/-- A frame of known class: the checksum test, then the class's unpacker (R205, R203). -/
def parseAs (unpack : Bytes → RxResult) (f : Bytes) (s : State) : Host.Outcome State Fault Refusal :=
  .next (s.emitRx (checked (checksumOf s.cfg.checksum) f (unpack f)))

/-- `ENTRY` (R95, R207). -/
def execEntry (seq : Nibble) (serial : Serial) (event chk : Byte) (s : State) : Host.Outcome State Fault Refusal :=
  parseAs unpackEntry (frame9 .entry seq serial event chk) s

/-- `MOTION` (R96, R208). -/
def execMotion (seq : Nibble) (serial : Serial) (event chk : Byte) (s : State) : Host.Outcome State Fault Refusal :=
  parseAs unpackMotion (frame9 .motion seq serial event chk) s

/-- `KEYCHAIN` (R97, R209). -/
def execKeychain (seq : Nibble) (serial : Serial) (event chk : Byte) (s : State) : Host.Outcome State Fault Refusal :=
  parseAs unpackKeychain (frame9 .keychain seq serial event chk) s

/-- `PINREQ` (R98, R210). -/
def execPinreq (seq : Nibble) (serial : Serial) (digits : Pin) (chk : Byte) (s : State) :
    Host.Outcome State Fault Refusal :=
  parseAs unpackPinreq (frame10 seq serial digits chk) s

/-- `PINRESP` (R99, R211). -/
def execPinresp (seq : Nibble) (serial base : Serial) (response chk : Byte) (s : State) :
    Host.Outcome State Fault Refusal :=
  parseAs unpackPinresp (frame14 seq serial base response chk) s

/-- `UNKNOWN`: `parse` of bytes that no class row matches, of any length (R167, R205, R206; log 5). -/
def execUnknown (frame : Bytes) (s : State) : Host.Outcome State Fault Refusal :=
  .next (s.emitRx (parse (checksumOf s.cfg.checksum) frame))

end Sys2Proof.Machine
end

