-- ==== Sys2Proof/Machine/Receive.lean ====
section
/-!
DEFINITION. The receive step through all three units, on the receive state alone and on the machine's state
(`43_host_operations.md` R261, R266; `10_state.md` R47).
-/

namespace Sys2Proof.Machine

/-- What leaves on `rx_result` for what the Frame Assembler gives: a failure as it is, a whole frame through
`dispatch` (R261). -/
def resultOfAsm (a : AsmResult) : RxResult :=
  match a with
  | .ok f => dispatch f
  | .fail x => .fail x

/-- `RX_PULSE` on the receive state, for a pulse that classifies as `sym` (R261). -/
def rxSymbolStep (chk : Bytes → Byte) (r : RxState) (sym : Symbol) : RxState × Option RxResult :=
  let step := asmStep chk r sym
  (step.1, step.2.map resultOfAsm)

/-- `RX_PULSE` on the receive state (R261). -/
def rxStep (chk : Bytes → Byte) (w : Windows) (r : RxState) (p : Pulse) : RxState × Option RxResult :=
  rxSymbolStep chk r (classify w p)

/-- `rx_stream` of R266: the results of the pulses in order, and the final state. -/
def rxStream (chk : Bytes → Byte) (w : Windows) (r : RxState) (ps : List Pulse) : List RxResult × RxState :=
  match ps with
  | [] => ([], r)
  | p :: rest =>
    let step := rxStep chk w r p
    let tail := rxStream chk w step.1 rest
    (step.2.toList ++ tail.1, tail.2)

/-- A data bit would go to a byte of `BUF` that does not exist (R48): only in states that break R36 (log 1). -/
def bitOutOfBuf (r : RxState) (sym : Symbol) : Bool :=
  match sym with
  | .zero | .one => decide (r.rxSt = .collecting) && decide (Memory.size ≤ r.nbits.toNat / 8)
  | .preamble | .invalid => false

/-- The receive step on the machine's state for a pulse that classifies as `sym` (R261). A failure is raised by the one
operation `State.raise` (R14, R283). -/
def receive (sym : Symbol) (s : State) : Host.Outcome State Fault Refusal :=
  if bitOutOfBuf s.rx sym then .fault .bufOutOfRange
  else
    match asmStep (checksumOf s.cfg.checksum) s.rx sym with
    | (r, none) => .next (s.setRx r)
    | (_, some (.fail x)) => .next (s.raise x)
    | (r, some (.ok f)) =>
      match dispatch f with
      | .ok m => .next ((s.setRx r).emitRx (.ok m))
      | .fail x => .next (s.raise x)

end Sys2Proof.Machine
end

