-- ==== Sys2Proof/Machine/PortRows.lean ====
section
/-!
DEFINITION. The meanings of the five host operations (`43_host_operations.md` R260 to R269).
-/

namespace Sys2Proof.Machine

/-- `RESET(cfg)` (R260): construction, or a refusal where `cfg_ok` fails (R321; log 8). -/
def execReset (c : Cfg) (s : State) : Host.Outcome State Fault Refusal :=
  if cfgOk c then .next (s.construct c) else .refused .cfgNotOk

/-- `RX_PULSE(p)` (R261). -/
def execRxPulse (p : Pulse) (s : State) : Host.Outcome State Fault Refusal := receive (classify s.win p) s

/-- `RX_CLEAR` (R263): `RxState <- idle`, no output. -/
def execRxClear (s : State) : Host.Outcome State Fault Refusal := .next (s.setRx RxState.idle)

/-- `TX_MSG(req)` (R264): a `ConstructionError` and no pulse, or the pulses of one frame; `RxState` untouched. -/
def execTxMsg (r : TxReq) (s : State) : Host.Outcome State Fault Refusal :=
  match construct r with
  | .error f => .next (s.raise f)
  | .ok m =>
    match encodePulses s.cfg (disassemble (body m) (checksumOf s.cfg.checksum)) with
    | some ps => .next (s.emitTx (.pulses ps))
    | none => .refused .preambleAtOddIndex

/-- `STATUS` (R269): (`RX_ST`, `NBITS`, `EXP_LEN`), no state written. -/
def execStatus (s : State) : Host.Outcome State Fault Refusal := .next s.emitStatus

end Sys2Proof.Machine
end

