-- ==== Sys2Proof/Machine/PulseRows.lean ====
section
/-!
DEFINITION. The meanings of the four pulse rows: the receive step of a pulse that is that symbol (`40_pulse_codec.md`
R131, R132, R133, R135; `41_frame_assembler.md` R160). The symbol is all that the Frame Assembler sees of the pulse
(R140), so the operand itself is not read again (log 12).
-/

namespace Sys2Proof.Machine

/-- `ZERO`: one data bit of value 0 (R131, R163, R164, R166). -/
def execZero (_p : Pulse) (s : State) : Host.Outcome State Fault Refusal := receive .zero s

/-- `ONE`: one data bit of value 1 (R132, R163, R164, R166). -/
def execOne (_p : Pulse) (s : State) : Host.Outcome State Fault Refusal := receive .one s

/-- `PREAMBLE`: start of a frame (R133, R161, R165). -/
def execPreamble (_dur : BitVec 16) (s : State) : Host.Outcome State Fault Refusal := receive .preamble s

/-- `INVALID`: the abort of the current frame attempt (R135, R162). -/
def execInvalid (_p : Pulse) (s : State) : Host.Outcome State Fault Refusal := receive .invalid s

end Sys2Proof.Machine
end

