-- ==== Sys2Proof/Machine/Dispatch.lean ====
section
/-!
DEFINITION. One arm per constructor of `Instr`, each one direct call of its meaning.
-/

namespace Sys2Proof.Machine

def exec (i : Instr) (s : State) : Host.Outcome State Fault Refusal :=
  match i with
  | .zero p => Sys2Proof.Machine.execZero p s
  | .one p => Sys2Proof.Machine.execOne p s
  | .preamble dur => Sys2Proof.Machine.execPreamble dur s
  | .invalid p => Sys2Proof.Machine.execInvalid p s
  | .entry seq serial event chk => Sys2Proof.Machine.execEntry seq serial event chk s
  | .motion seq serial event chk => Sys2Proof.Machine.execMotion seq serial event chk s
  | .keychain seq serial event chk => Sys2Proof.Machine.execKeychain seq serial event chk s
  | .pinreq seq serial digits chk => Sys2Proof.Machine.execPinreq seq serial digits chk s
  | .pinresp seq serial base response chk => Sys2Proof.Machine.execPinresp seq serial base response chk s
  | .unknown frame => Sys2Proof.Machine.execUnknown frame s
  | .reset cfg => Sys2Proof.Machine.execReset cfg s
  | .rxPulse p => Sys2Proof.Machine.execRxPulse p s
  | .rxClear => Sys2Proof.Machine.execRxClear s
  | .txMsg req => Sys2Proof.Machine.execTxMsg req s
  | .status => Sys2Proof.Machine.execStatus s

end Sys2Proof.Machine
end

