-- ==== Sys2Proof/Machine/Step.lean ====
section
/-!
DEFINITION. One step: the host's first request is taken, decoded under the instance's windows and run
(`20_memory.md` R67, R70).
-/

namespace Sys2Proof.Machine

/-- One atomic step (R67). With no request the block "does nothing and holds `RxState`" (R300; log 15). -/
def step (s : State) : Host.Outcome State Fault Refusal :=
  match s.input with
  | [] => .next s
  | x :: rest => exec (decode s.win x) (s.popInput rest)

/-- `s` with the table word's instruction as the host's next request, the one that `step` takes (log 2, log 9). -/
def State.withFetchWord (s : State) (nbits w : Nat) : State :=
  match tableInput nbits w with
  | some x => { s with input := x :: s.input }
  | none => s

end Sys2Proof.Machine
end

