-- ==== Sys2Proof/Machine/Platform.lean ====
section
/-!
DEFINITION. Several channels side by side (`10_state.md` R51, `20_memory.md` R71, `60_exceptions.md` R298): independent
instances in a list, each with its own state, configuration and requests; the host chooses which one steps. A channel
may have no instance (`70_reset_and_hazards.md` R321, R322), and a `RESET` then constructs one (`43_host_operations.md`
R260). There are no identifiers of channels inside an instance (R298), so the index belongs to the platform.
-/

namespace Sys2Proof.Machine

/-- Why a channel has no instance. -/
inductive Absence where
  /-- "Before the first `RESET` there is no instance" (R322). -/
  | notConstructed
  /-- A construction was refused: "no instance comes to exist" (R321). -/
  | refused (r : Refusal)
  /-- The machine fault of log 1, which no run from reset meets. DESIGN CHOICE: log 19. -/
  | faulted (r : Fault)
deriving DecidableEq, Repr

/-- One channel of a platform: an instance, or none, with the host's requests that are still to come (log 2). -/
inductive Channel where
  | live (s : State)
  | absent (why : Absence) (input : List Input)
deriving DecidableEq, Repr

/-- The channel after an operation, where `rest` are the requests after it: a refused one leaves no instance (R260,
R321), and no operation "has an effect on another channel" (R270). -/
def Channel.after (rest : List Input) (o : Host.Outcome State Fault Refusal) : Channel :=
  match o with
  | .next t => .live t
  | .fault r => .absent (.faulted r) rest
  | .refused r => .absent (.refused r) rest

/-- A request to a channel without an instance. `RESET` "may be performed again at any time" and constructs one or is
refused (R260); it writes everything, so the state it is run on does not matter (`execReset_after`). No other operation
can be performed (R260, R321); that such a request is dropped is the model's choice. DESIGN CHOICE: log 19. -/
def Channel.request (why : Absence) (x : Input) (rest : List Input) : Channel :=
  match x with
  | .port (.reset c) => .after rest (execReset c (State.reset.popInput rest))
  | _ => .absent why rest

/-- A step of one channel: of its instance, or of the channel without one. -/
def Channel.step (c : Channel) : Channel :=
  match c with
  | .live s => .after s.input.tail (Sys2Proof.Machine.step s)
  | .absent why [] => .absent why []
  | .absent why (x :: rest) => .request why x rest

/-- A platform with `N` receive channels: `N` independent instances (R51; log 10). -/
abbrev Platform := List Channel

/-- A platform of `N` channels before the first `RESET` of any of them (R322). -/
def Platform.initial (n : Nat) : Platform := List.replicate n (.absent .notConstructed [])

/-- `N` instances after reset, "each reset separately" (R51; each with `Cfg.default`, log 7). -/
def Platform.reset (n : Nat) : Platform := List.replicate n (.live State.reset)

/-- The host lets channel `i` make a step; an index without a channel steps nothing. A channel whose step is refused (a
`RESET` with a bad `Cfg`) or faults loses its own instance alone, and every other channel goes on: no operation "has an
effect on another channel" (R270). -/
def Platform.stepAt (p : Platform) (i : Nat) : Platform := p.modify i Channel.step

/-- The host lets channels step in the order of a list of indices, "any interleaving" (R71). -/
def Platform.run (p : Platform) (schedule : List Nat) : Platform := schedule.foldl Platform.stepAt p

end Sys2Proof.Machine
end

