-- ==== Sys2Proof/Machine/Flags.lean ====
section
/-!
DEFINITION. "The block has no condition codes and no flags" (`10_state.md` R43). What it has in their place: the codes
of `RX_ST`, the condition `PreambleNotFound` that the host reads from the status view, and the numeric codes of
failures (`60_exceptions.md` R280, R282; `42_message_codec.md` R202).
-/

namespace Sys2Proof.Machine

/-- The encoding of `RX_ST`: 0 `WaitingPreamble`, 1 `Collecting` (R31). -/
def rxStCode (r : RxSt) : BitVec 1 :=
  match r with
  | .waiting => 0#1
  | .collecting => 1#1

/-- `PreambleNotFound` as the host observes it: `RX_ST = 0` with no result pending (R43, R282). -/
def preambleNotFound (s : State) : Bool := decide (s.rx.rxSt = .waiting) && s.rxResult.isNone

/-- The codes of the `cause` of a `TimingInvalid` (R280). -/
def causeCode (c : Cause) : BitVec 1 :=
  match c with
  | .invalidPulse => 0#1
  | .unexpectedPreamble => 1#1

/-- Field identifiers 1 to 6 (R202). -/
def fieldCode (f : Field) : BitVec 3 :=
  match f with
  | .serial => 1
  | .sequence => 2
  | .event => 3
  | .pin => 4
  | .baseSerial => 5
  | .response => 6

/-- Failure codes 1 to 6; code 0 is `Ok` (R280). -/
def failureCode (f : Failure) : BitVec 3 :=
  match f with
  | .timingInvalid _ _ _ => 1
  | .preambleNotFound => 2
  | .checksumMismatch _ => 3
  | .unrecognizedFormat _ => 4
  | .invalidField _ _ => 5
  | .constructionError _ => 6

end Sys2Proof.Machine
end

