-- ==== Sys2Proof/Machine/Record.lean ====
section
/-!
DEFINITION. A result as a record of fixed fields, "for a host that wants a fixed layout" (`60_exceptions.md` R301). A
derived view of the tagged results: "the record adds nothing to them".
-/

namespace Sys2Proof.Machine

/-- The fields of R301; "only the fields the kind carries are meaningful; the others are zero". -/
structure ResultRecord where
  kind       : BitVec 3
  cause      : BitVec 1
  collecting : BitVec 1
  nbits      : BitVec 7
  field      : BitVec 3
  len        : BitVec 4
  frame      : Bytes
  cls        : BitVec 3
  seq        : BitVec 4
  serial     : Serial
  baseSerial : Serial
  code       : Byte
  pin        : Pin
  pulses     : List Pulse
deriving DecidableEq, Repr

/-- Five zero bytes. -/
def zeroSerial : Serial := ⟨0, 0, 0, 0, 0⟩

/-- Every field zero; `FRAME[0..13]` is 14 zero bytes (R301). -/
def ResultRecord.zero : ResultRecord :=
  { kind := 0, cause := 0, collecting := 0, nbits := 0, field := 0, len := 0, frame := List.replicate maxLen 0
    cls := 0, seq := 0, serial := zeroSerial, baseSerial := zeroSerial, code := 0, pin := ⟨0, 0, 0, 0⟩, pulses := [] }

/-- `FRAME[0..13]`: the frame's bytes, unused bytes zero (R301). -/
def frameField (f : Bytes) : Bytes := (List.range maxLen).map (byteAt f)

/-- The record of a failure (R301). Where the frame has more than 14 bytes (`UnrecognizedFormat` from `parse` on bytes,
R205), which R301 gives no record for, `LEN` is the length modulo 16 and `FRAME` the first 14 bytes. DESIGN CHOICE:
log 21. -/
def failureRecord (f : Failure) : ResultRecord :=
  match f with
  | .timingInvalid c col n =>
    { ResultRecord.zero with
      kind := failureCode f, cause := causeCode c, collecting := BitVec.ofBool col, nbits := n }
  | .preambleNotFound => { ResultRecord.zero with kind := failureCode f }
  | .checksumMismatch fr =>
    { ResultRecord.zero with kind := failureCode f, len := BitVec.ofNat 4 fr.length, frame := frameField fr }
  | .unrecognizedFormat fr =>
    { ResultRecord.zero with kind := failureCode f, len := BitVec.ofNat 4 fr.length, frame := frameField fr }
  | .invalidField fl fr =>
    { ResultRecord.zero with
      kind := failureCode f, field := fieldCode fl, len := BitVec.ofNat 4 fr.length, frame := frameField fr }
  | .constructionError fl => { ResultRecord.zero with kind := failureCode f, field := fieldCode fl }

/-- The record of a received message: kind 0, `CLASS` 1 to 5 (R301). -/
def messageRecord (m : Message) : ResultRecord :=
  match m with
  | .entrySensor s q e => { ResultRecord.zero with cls := 1, seq := q, serial := s, code := entryCode e }
  | .motionSensor s q e => { ResultRecord.zero with cls := 2, seq := q, serial := s, code := motionCode e }
  | .keychainRemote s q e => { ResultRecord.zero with cls := 3, seq := q, serial := s, code := keychainCode e }
  | .pinRequest s q p => { ResultRecord.zero with cls := 4, seq := q, serial := s, pin := p }
  | .pinResponse ks q bs r =>
    { ResultRecord.zero with cls := 5, seq := q, serial := ks, baseSerial := bs, code := responseCode r }

/-- The record of a result on `rx_result` (R301). -/
def rxRecord (r : RxResult) : ResultRecord :=
  match r with
  | .ok m => messageRecord m
  | .fail f => failureRecord f

/-- The record of a result on `tx_result` (R301). -/
def txRecord (r : TxResult) : ResultRecord :=
  match r with
  | .pulses ps => { ResultRecord.zero with pulses := ps }
  | .fail f => failureRecord f

/-- The bytes of the frame a failure carries (R280); nothing for the other kinds. -/
def failureFrame (f : Failure) : Bytes :=
  match f with
  | .timingInvalid _ _ _ => []
  | .preambleNotFound => []
  | .checksumMismatch fr => fr
  | .unrecognizedFormat fr => fr
  | .invalidField _ fr => fr
  | .constructionError _ => []

end Sys2Proof.Machine
end

