-- ==== Sys2Proof/Machine/Text.lean ====
section
/-!
DEFINITION. The text forms and shorthands of the spec: pulses, frames and messages as text, `GAP`, `TX`, `WIRE`
(`00_scope.md` R16, `30_encoding.md` R116, R117). No operation of the block reads or writes text.
-/

namespace Sys2Proof.Machine

/-- The decimal digits of `n`, least significant first, at most `fuel` of them. -/
def decDigitsRev (fuel n : Nat) : List Char :=
  match fuel with
  | 0 => []
  | k + 1 => Char.ofNat (48 + n % 10) :: (if n / 10 = 0 then [] else decDigitsRev k (n / 10))

/-- A number below 100000 in decimal. -/
def decText (n : Nat) : String := String.ofList (decDigitsRev 5 n).reverse

/-- One hexadecimal digit, upper case. -/
def hexDigit (n : Nibble) : Char := if n.toNat < 10 then Char.ofNat (48 + n.toNat) else Char.ofNat (55 + n.toNat)

/-- Two hexadecimal digits of a byte. -/
def hexByte (b : Byte) : List Char := [hexDigit (hiNibble b), hexDigit (loNibble b)]

/-- `pulse ::= ('H' | 'L') decimal` (R116). -/
def pulseText (p : Pulse) : String := (match p.level with | .high => "H" | .low => "L") ++ decText p.dur.toNat

/-- `pulses ::= pulse (' ' pulse)*` (R116). -/
def pulsesText (ps : List Pulse) : String := String.intercalate " " (ps.map pulseText)

/-- `frame ::= HH (' ' HH)*`, byte 0 first (R116). -/
def frameText (f : Bytes) : String := String.intercalate " " (f.map (fun b => String.ofList (hexByte b)))

/-- The characters of a serial number, character 0 leftmost (R63). -/
def serialText (s : Serial) : String := String.ofList ((serialBytes s).map (fun b => Char.ofNat b.toNat))

/-- The digits of a PIN, digit 0 leftmost (R63). -/
def pinText (p : Pin) : String :=
  String.ofList ([p.d0, p.d1, p.d2, p.d3].map (fun d => Char.ofNat (48 + d.toNat)))

/-- `STR` (R116). -/
def quoted (t : String) : String := "\"" ++ t ++ "\""

/-- The sequence as `NUM` in its hexadecimal form (R116, `sequence=0x0`). -/
def seqText (q : Nibble) : String := "0x" ++ String.ofList [hexDigit q]

/-- The event or response as it is written (R116). -/
def entryEventText (e : EntryEvent) : String :=
  match e with
  | .opened => "Open"
  | .closed => "Closed"

/-- The event as it is written (R116). -/
def motionEventText (e : MotionEvent) : String :=
  match e with
  | .heartbeat => "Heartbeat"
  | .motion => "Motion"

/-- The event as it is written (R116). -/
def keychainEventText (e : KeychainEvent) : String :=
  match e with
  | .panic => "Panic"
  | .away => "Away"
  | .off => "Off"

/-- The response as it is written (R116). -/
def responseText (r : PinResponse) : String :=
  match r with
  | .valid => "Valid"
  | .invalid => "Invalid"

/-- `message`, the source's constructor form (R116). -/
def messageText (m : Message) : String :=
  match m with
  | .entrySensor s q e =>
    "EntrySensorMessage(serial=" ++ quoted (serialText s) ++ ", sequence=" ++ seqText q ++ ", event="
      ++ entryEventText e ++ ")"
  | .motionSensor s q e =>
    "MotionSensorMessage(serial=" ++ quoted (serialText s) ++ ", sequence=" ++ seqText q ++ ", event="
      ++ motionEventText e ++ ")"
  | .keychainRemote s q e =>
    "KeychainRemoteMessage(serial=" ++ quoted (serialText s) ++ ", sequence=" ++ seqText q ++ ", event="
      ++ keychainEventText e ++ ")"
  | .pinRequest s q p =>
    "KeypadDisarmPinRequest(serial=" ++ quoted (serialText s) ++ ", sequence=" ++ seqText q ++ ", pin="
      ++ quoted (pinText p) ++ ")"
  | .pinResponse ks q bs r =>
    "BaseStationKeypadDisarmPinResponse(keypadSerial=" ++ quoted (serialText ks) ++ ", sequence=" ++ seqText q
      ++ ", baseStationSerial=" ++ quoted (serialText bs) ++ ", response=" ++ responseText r ++ ")"

/-- The value of a decimal digit character. -/
def decValue (c : Char) : Option Nat := if 48 ≤ c.toNat ∧ c.toNat ≤ 57 then some (c.toNat - 48) else none

/-- The value of a hexadecimal digit character, either case. -/
def hexValue (c : Char) : Option Nat :=
  if 48 ≤ c.toNat ∧ c.toNat ≤ 57 then some (c.toNat - 48)
  else if 65 ≤ c.toNat ∧ c.toNat ≤ 70 then some (c.toNat - 55)
  else if 97 ≤ c.toNat ∧ c.toNat ≤ 102 then some (c.toNat - 87)
  else none

/-- The number that digits of a base are, leftmost digit first, from `acc` on. -/
def readDigits (base : Nat) (value : Char → Option Nat) (acc : Nat) (cs : List Char) : Option Nat :=
  match cs with
  | [] => some acc
  | c :: rest => (value c).bind (fun v => readDigits base value (base * acc + v) rest)

/-- `NUM ::= decimal | 0x hexadecimal` (R116). -/
def readNum (cs : List Char) : Option Nat :=
  match cs with
  | [] => none
  | '0' :: 'x' :: c :: rest => readDigits 16 hexValue 0 (c :: rest)
  | c :: rest => readDigits 10 decValue 0 (c :: rest)

/-- A pulse from its text; a duration that 16 bits do not hold is no pulse (R90, R116; that the text is rejected is the
model's choice, log 20). -/
def readPulse (t : List Char) : Option Pulse :=
  match t with
  | 'H' :: c :: rest =>
    (readDigits 10 decValue 0 (c :: rest)).bind (fun n =>
      if n ≤ 65535 then some ⟨.high, BitVec.ofNat 16 n⟩ else none)
  | 'L' :: c :: rest =>
    (readDigits 10 decValue 0 (c :: rest)).bind (fun n =>
      if n ≤ 65535 then some ⟨.low, BitVec.ofNat 16 n⟩ else none)
  | _ => none

/-- A byte from its two hexadecimal digits (R116). -/
def readHexByte (t : List Char) : Option Byte :=
  match t with
  | [a, b] => (hexValue a).bind (fun x => (hexValue b).bind (fun y => some (BitVec.ofNat 8 (16 * x + y))))
  | _ => none

/-- The pieces of a text between its occurrences of `sep`, in order. -/
def splitOnChar (sep : Char) (cs : List Char) : List (List Char) :=
  match cs with
  | [] => [[]]
  | c :: rest =>
    if c = sep then [] :: splitOnChar sep rest
    else
      match splitOnChar sep rest with
      | [] => [[c]]
      | w :: ws => (c :: w) :: ws

/-- `pulses` from text (R116). -/
def readPulses (t : String) : Option (List Pulse) := (splitOnChar ' ' t.toList).mapM readPulse

/-- `frame` from text (R116). -/
def readFrame (t : String) : Option Bytes := (splitOnChar ' ' t.toList).mapM readHexByte

/-- `xs` without the prefix `p`, if it has it. -/
def afterPrefix (p xs : List Char) : Option (List Char) :=
  match p, xs with
  | [], ys => some ys
  | _ :: _, [] => none
  | a :: as, b :: bs => if a = b then afterPrefix as bs else none

/-- The characters up to the first `stop` and those after it. -/
def untilChar (stop : Char) (cs : List Char) : Option (List Char × List Char) :=
  match cs with
  | [] => none
  | c :: rest =>
    if c = stop then some ([], rest) else (untilChar stop rest).map (fun r => (c :: r.1, r.2))

/-- The character code of a text's character as one byte. A character above U+00FF has no code of one byte and is taken
as 0xFF, which no constructor accepts (R219, R220), so that such a text is rejected as R213 has it. DESIGN CHOICE:
log 14. -/
def charCode (c : Char) : Byte := BitVec.ofNat 8 (min c.toNat 255)

/-- The character codes of a text (log 14). -/
def codesOf (cs : List Char) : Bytes := cs.map charCode

/-- `key="…"` and what follows: the codes between the quotes. -/
def readStrArg (key : String) (cs : List Char) : Option (Bytes × List Char) :=
  (afterPrefix (key.toList ++ ['=', '"']) cs).bind (fun r =>
    (untilChar '"' r).map (fun p => (codesOf p.1, p.2)))

/-- `, sequence=NUM` up to the next comma. -/
def readSeqArg (cs : List Char) : Option (Nat × List Char) :=
  (afterPrefix ", sequence=".toList cs).bind (fun r =>
    (untilChar ',' r).bind (fun p => (readNum p.1).map (fun n => (n, ',' :: p.2))))

/-- `, key=Name)` at the end of the text, the name one of a list. -/
def readNameArg {α : Type} (key : String) (names : List (String × α)) (cs : List Char) : Option α :=
  (afterPrefix (", " ++ key ++ "=").toList cs).bind (fun r =>
    (names.find? (fun n => decide (n.1.toList ++ [')'] = r))).map (fun n => n.2))

/-- The shared front of the first four forms: `Name(serial="…", sequence=NUM`, then what `k` reads. -/
def readSerialSeq (name : String) (cs : List Char) (k : Bytes → Nat → List Char → Option TxReq) : Option TxReq :=
  (afterPrefix (name ++ "(").toList cs).bind (fun r =>
    (readStrArg "serial" r).bind (fun a =>
      (readSeqArg a.2).bind (fun b => k a.1 b.1 b.2)))

/-- A transmit request from the constructor form of R116, its arguments unchecked (R213, R265). -/
def readRequest (t : String) : Option TxReq :=
  let cs := t.toList
  (readSerialSeq "EntrySensorMessage" cs (fun s n r =>
      (readNameArg "event" [("Open", EntryEvent.opened), ("Closed", EntryEvent.closed)] r).map
        (fun e => .entrySensor s n e))).or
  ((readSerialSeq "MotionSensorMessage" cs (fun s n r =>
      (readNameArg "event" [("Heartbeat", MotionEvent.heartbeat), ("Motion", MotionEvent.motion)] r).map
        (fun e => .motionSensor s n e))).or
  ((readSerialSeq "KeychainRemoteMessage" cs (fun s n r =>
      (readNameArg "event"
        [("Panic", KeychainEvent.panic), ("Away", KeychainEvent.away), ("Off", KeychainEvent.off)] r).map
        (fun e => .keychainRemote s n e))).or
  ((readSerialSeq "KeypadDisarmPinRequest" cs (fun s n r =>
      (afterPrefix [',', ' '] r).bind (fun r' =>
        (readStrArg "pin" r').bind (fun p => if p.2 = [')'] then some (.pinRequest s n p.1) else none)))).or
  ((afterPrefix "BaseStationKeypadDisarmPinResponse(".toList cs).bind (fun r =>
      (readStrArg "keypadSerial" r).bind (fun a =>
        (readSeqArg a.2).bind (fun b =>
          (afterPrefix [',', ' '] b.2).bind (fun c =>
            (readStrArg "baseStationSerial" c).bind (fun d =>
              (readNameArg "response" [("Valid", PinResponse.valid), ("Invalid", PinResponse.invalid)] d.2).map
                (fun x => .pinResponse a.1 b.1 d.1 x))))))))))

/-- `GAP n` is the pulse `L n` (R117). `L n` with `n` above 65535 is no pulse by R90; `GAP` of such an `n` is taken as the
gap of that length, which a transceiver presents as 65535 (R90, R337). DESIGN CHOICE: log 20. -/
def gap (n : Nat) : Pulse := ⟨.low, presentedDuration n⟩

/-- `WIRE(frame)`: `encode([Preamble] ++ bits(frame))`, checksum byte included and not recomputed (R117). Its one
Preamble symbol is at index 0, inside the domain of `encode`. -/
def wire (c : Cfg) (f : Bytes) : List Pulse := encodeFrom c 0 (.preamble :: bits f)

/-- `TX(message)`: the pulses `TX_MSG` gives for the message (R117). For a message that no constructor builds (R231), for
which `TX_MSG` gives no pulses, it is the pulses of the message's serialized frame. DESIGN CHOICE: log 22. -/
def txPulses (c : Cfg) (m : Message) : List Pulse := wire c (serialize (checksumOf c.checksum) m)

end Sys2Proof.Machine
end

