-- ==== Sys2Proof/Safety.lean ====
section
/-!
DEFINITION. What a good state is: the invariants of `10_state.md` R32, R33, R36, R39, R41 and the canonical form of
`BUF`; and what a safe run is.
-/

namespace Sys2Proof.Machine

/-- The invariant of the receive state: `BUF` in canonical form, and the four clauses of R36. -/
abbrev RxState.Inv (r : RxState) : Prop :=
  Memory.wf r.buf = true
  ∧ (r.rxSt = .waiting → r = RxState.idle)
  ∧ (r.rxSt = .collecting → r.nbits.toNat < 16 → r.expLen = 0)
  ∧ (r.rxSt = .collecting → 16 ≤ r.nbits.toNat →
      r.expLen.toNat = frameLen (Memory.read r.buf 0) (hiNibble (Memory.read r.buf 1))
      ∧ r.nbits.toNat < 8 * r.expLen.toNat)
  ∧ (∀ k, k < 8 * Memory.size → r.nbits.toNat ≤ k → Memory.frameBit r.buf k = false)

/-- The invariant of an instance: a configuration with which an instance can exist (R41), the window constants derived
from it (R39), a receive state of R36. -/
abbrev State.Inv (s : State) : Prop :=
  cfgOk s.cfg = true ∧ s.win = windowsOf s.cfg ∧ s.rx.Inv

/-- The kinds of failure that leave on `rx_result` (R262). -/
def rxFailureKind (f : Failure) : Bool :=
  match f with
  | .timingInvalid _ _ _ => true
  | .preambleNotFound => false
  | .checksumMismatch _ => true
  | .unrecognizedFormat _ => true
  | .invalidField _ _ => true
  | .constructionError _ => false

/-- What may stand on the result ports: the kinds of R262 on `rx_result`, messages with every field in its domain
(R201), a `ConstructionError` or pulses on `tx_result` (R264). -/
def portsOk (s : State) : Bool :=
  (match s.rxResult with
    | none => true
    | some (.ok m) => messageOk m
    | some (.fail f) => rxFailureKind f)
  && (match s.txResult with
    | none => true
    | some (.pulses _) => true
    | some (.fail (.constructionError _)) => true
    | some (.fail _) => false)

/-- At most one result stands on the ports: each operation has one output at most (R262, R264, R269). -/
def oneOutput (s : State) : Bool :=
  (s.rxResult.isNone && s.txResult.isNone) || (s.rxResult.isNone && s.statusOut.isNone)
    || (s.txResult.isNone && s.statusOut.isNone)

/-- A run of `k` steps meets no machine fault. -/
def faultFree (k : Nat) (s : State) : Prop := ∀ r, Host.Core.run Sys2Proof.core k s ≠ .fault r

end Sys2Proof.Machine
end

