-- ==== Sys2Proof/Certificates/Slice0/Obligations.lean ====
section
/-!
DEFINITION. The statements for the provers. Each docstring names the rule of `spec/` that its statement formalises, or
the model's own choice it rests on.
-/

open Sys2Proof Sys2Proof.Machine

/-! ### Decoding and encoding -/

/-- Decoding what the encoder presents gives the instruction back, for every row of the table and every operand of it
(R91, R92, R95 to R100, R118; that a row of each kind is presented as one `Input` is the model's choice, log 4). -/
def Obligations.DecodeEncodeRoundTrip : Prop :=
  ∀ (w : Windows) (i : Instr), i.wf w = true → decode w (encode i) = i

/-- What decodes is well formed and is what the encoder presents for it: no bit of a pulse word or of a frame is dropped
(the spec's own inference R113, "no reserved bit and no don't-care bit"; log 4 as above). -/
def Obligations.EncodeOfDecodedInput : Prop :=
  ∀ (w : Windows) (x : Input), encode (decode w x) = x ∧ (decode w x).wf w = true

/-- Words of the spec's own vectors decode to the instructions they stand for (95_test_vectors, frames FA, FC, FE, FH,
FI, V60, V16). -/
def Obligations.SpecWordsDecode : Prop :=
  let w := windowsOf cfgDefault
  decode w (.frame [0x05, 0x10, 0x31, 0x32, 0x33, 0x41, 0x5A, 0x01, 0x47])
      = (.entry 0 ⟨0x31, 0x32, 0x33, 0x41, 0x5A⟩ 0x01 0x47)
  ∧ decode w (.frame [0x04, 0x1F, 0x34, 0x58, 0x59, 0x37, 0x37, 0x01, 0x77])
      = (.motion 15 ⟨0x34, 0x58, 0x59, 0x37, 0x37⟩ 0x01 0x77)
  ∧ decode w (.frame [0x02, 0x19, 0x32, 0x4B, 0x43, 0x30, 0x31, 0x03, 0x3F])
      = (.keychain 9 ⟨0x32, 0x4B, 0x43, 0x30, 0x31⟩ 0x03 0x3F)
  ∧ decode w (.frame [0x01, 0x23, 0x31, 0x35, 0x39, 0x4D, 0x50, 0x13, 0x79, 0xEC])
      = (.pinreq 3 ⟨0x31, 0x35, 0x39, 0x4D, 0x50⟩ ⟨1, 3, 7, 9⟩ 0xEC)
  ∧ decode w (.frame [0x01, 0x33, 0x31, 0x35, 0x39, 0x4D, 0x50, 0x30, 0x41, 0x31, 0x42, 0x32, 0x01, 0x87])
      = (.pinresp 3 ⟨0x31, 0x35, 0x39, 0x4D, 0x50⟩ ⟨0x30, 0x41, 0x31, 0x42, 0x32⟩ 0x01 0x87)
  ∧ decode w (.frame [0x07, 0x10, 0x31, 0x32, 0x33, 0x41, 0x5A, 0x01, 0x49])
      = (.unknown [0x07, 0x10, 0x31, 0x32, 0x33, 0x41, 0x5A, 0x01, 0x49])
  ∧ decode w (.pulse 0b00000000111110100#17) = (.zero ⟨.low, 500⟩)
  ∧ decode w (.pulse 0b10000001111101000#17) = (.one ⟨.high, 1000⟩)
  ∧ decode w (.pulse 0b10000011111010000#17) = (.preamble 2000)
  ∧ decode w (.pulse 0b00000011111010000#17) = (.invalid ⟨.low, 2000⟩)
  ∧ decode w (.port (.rxPulse 0b10000011111010000#17)) = (.rxPulse ⟨.high, 2000⟩)

/-- The two lookup tables agree: the dispatch table gives a class for a header at the length that the length table gives
it exactly for the five defined pairs (R110, R111). -/
def Obligations.LookupTablesAgree : Prop :=
  ∀ (dev : Byte) (mt : Nibble),
    (classOf dev (frameLen dev mt) mt).isSome = true ↔
      (dev, mt) ∈ ([(0x05, 0x1), (0x04, 0x1), (0x02, 0x1), (0x01, 0x2), (0x01, 0x3)] : List (Byte × Nibble))

/-- A step runs the decoded instruction, whatever is presented, on the state without the request it takes; with no request
a step changes nothing, which is the model's reading of R300 (log 15). -/
def Obligations.StepRunsDecodedInstruction : Prop :=
  (∀ (s : State) (x : Input) (rest : List Input),
    s.input = x :: rest → step s = exec (decode s.win x) { s with input := rest })
  ∧ (∀ s : State, s.input = [] → step s = .next s)

/-! ### Configuration and classification -/

/-- `Cfg.default`, its six window constants, and that an instance can exist with it (R40, R41). -/
def Obligations.DefaultConfigurationWindows : Prop :=
  cfgDefault = { tZero := 500, tOne := 1000, tPre := 2000, tolBitPct := 25, tolPrePct := 25, checksum := .sum8 }
  ∧ windowsOf cfgDefault = { zLo := 375, zHi := 625, oLo := 750, oHi := 1250, pLo := 1500, pHi := 2500 }
  ∧ cfgOk cfgDefault = true

/-- `cfg_ok` is the conjunction of the four clauses of R41, the disjointness of the windows stated over every integer
duration. -/
def Obligations.CfgOkIsTheFourClauses : Prop :=
  ∀ c : Cfg, cfgOk c = true ↔
    ((1 ≤ c.tZero ∧ c.tZero ≤ 65535) ∧ (1 ≤ c.tOne ∧ c.tOne ≤ 65535) ∧ (1 ≤ c.tPre ∧ c.tPre ≤ 65535)
      ∧ (1 ≤ c.tolBitPct ∧ c.tolBitPct ≤ 99) ∧ (1 ≤ c.tolPrePct ∧ c.tolPrePct ≤ 99))
    ∧ (1 ≤ c.tZero * c.tolBitPct / 100 ∧ 1 ≤ c.tOne * c.tolBitPct / 100 ∧ 1 ≤ c.tPre * c.tolPrePct / 100)
    ∧ (∀ d : Nat,
        ¬ (((windowsOf c).zLo ≤ d ∧ d < (windowsOf c).zHi) ∧ (windowsOf c).oLo ≤ d ∧ d < (windowsOf c).oHi)
        ∧ ¬ (((windowsOf c).zLo ≤ d ∧ d < (windowsOf c).zHi) ∧ (windowsOf c).pLo ≤ d ∧ d < (windowsOf c).pHi)
        ∧ ¬ (((windowsOf c).oLo ≤ d ∧ d < (windowsOf c).oHi) ∧ (windowsOf c).pLo ≤ d ∧ d < (windowsOf c).pHi))
    ∧ ((windowsOf c).pHi ≤ 65536 ∧ (windowsOf c).zHi ≤ 65536 ∧ (windowsOf c).oHi ≤ 65536)

/-- Under `cfg_ok` each symbol is exactly its window's: Zero and One at either level, Preamble for High only, Invalid for
every other pulse (R91, R130 to R133, R135). -/
def Obligations.ClassifyIsTheWindowTable : Prop :=
  ∀ (c : Cfg) (p : Pulse), cfgOk c = true →
    let w := windowsOf c
    let d := p.dur.toNat
    (classify w p = .zero ↔ w.zLo ≤ d ∧ d < w.zHi)
    ∧ (classify w p = .one ↔ w.oLo ≤ d ∧ d < w.oHi)
    ∧ (classify w p = .preamble ↔ p.level = .high ∧ w.pLo ≤ d ∧ d < w.pHi)
    ∧ (classify w p = .invalid ↔
        ¬ (w.zLo ≤ d ∧ d < w.zHi) ∧ ¬ (w.oLo ≤ d ∧ d < w.oHi) ∧ ¬ (p.level = .high ∧ w.pLo ≤ d ∧ d < w.pHi))

/-! ### The receive step, row by row -/

/-- The `ZERO` and `ONE` rows while scanning write no receive state and give no result (R163 over the rows: log 4; the
emptied ports: log 3). -/
def Obligations.DataBitWhileScanningIsSkipped : Prop :=
  ∀ (s : State) (p : Pulse), s.rx.rxSt = .waiting →
    exec (.zero p) s = .next { s with rxResult := none, txResult := none, statusOut := none }
    ∧ exec (.one p) s = .next { s with rxResult := none, txResult := none, statusOut := none }

/-- A data bit that is not the last of the frame: the bit goes to position `NBITS`, `NBITS` counts it, `EXP_LEN` is read
from the header in the step that completes it, nothing else changes and no result is given (R164). `b` is 0 for the
`ZERO` row and 1 for the `ONE` row (log 4; the emptied ports: log 3). -/
def Obligations.DataBitIsShiftedIn : Prop :=
  ∀ (s : State) (p : Pulse) (b : Bool),
    s.Inv → s.rx.rxSt = .collecting →
    ¬ (s.rx.expLen ≠ 0 ∧ s.rx.nbits.toNat + 1 = 8 * s.rx.expLen.toNat) →
    ∃ t : State,
      exec (if b then .one p else .zero p) s = .next t
      ∧ t.rx.rxSt = .collecting
      ∧ t.rx.nbits.toNat = s.rx.nbits.toNat + 1
      ∧ (∀ j : Nat, Memory.frameBit t.rx.buf j = if j = s.rx.nbits.toNat then b else Memory.frameBit s.rx.buf j)
      ∧ (t.rx.nbits.toNat = 16 →
          t.rx.expLen.toNat = frameLen (Memory.read t.rx.buf 0) (hiNibble (Memory.read t.rx.buf 1)))
      ∧ (t.rx.nbits.toNat ≠ 16 → t.rx.expLen = s.rx.expLen)
      ∧ t = { s with rx := t.rx, rxResult := none, txResult := none, statusOut := none }

/-- The last data bit of a frame completes it: `RxState` is idle, and the result on `rx_result` is `parse` of the
`EXP_LEN` bytes whose bits are the bits of `BUF` with this one (R166, R261; log 3 and log 4 as above). -/
def Obligations.LastDataBitCompletesFrame : Prop :=
  ∀ (s : State) (p : Pulse) (b : Bool),
    s.Inv → s.rx.rxSt = .collecting → s.rx.expLen ≠ 0 → s.rx.nbits.toNat + 1 = 8 * s.rx.expLen.toNat →
    ∃ f : Bytes,
      exec (if b then .one p else .zero p) s = .next { s with
          rx := RxState.idle
          rxResult := some (parse (checksumOf s.cfg.checksum) f)
          txResult := none
          statusOut := none }
      ∧ f.length = s.rx.expLen.toNat
      ∧ ∀ k : Nat, k < 8 * f.length →
          (byteAt f (k / 8)).getLsbD (7 - k % 8)
            = if k = s.rx.nbits.toNat then b else Memory.frameBit s.rx.buf k

/-- A Preamble symbol starts a frame attempt; inside one it aborts it with `TimingInvalid` of cause
`UnexpectedPreamble` and the bits lost, and starts the next (R161, R165; log 3 and log 4 as above). -/
def Obligations.PreambleStartsAttempt : Prop :=
  ∀ (s : State) (d : BitVec 16),
    (s.rx.rxSt = .waiting →
      exec (.preamble d) s = .next { s with
        rx := { rxSt := .collecting, nbits := 0, expLen := 0, buf := [] },
        rxResult := none, txResult := none, statusOut := none })
    ∧ (s.rx.rxSt = .collecting →
      exec (.preamble d) s = .next { s with
        rx := { rxSt := .collecting, nbits := 0, expLen := 0, buf := [] },
        rxResult := some (.fail (.timingInvalid .unexpectedPreamble true s.rx.nbits)),
        txResult := none, statusOut := none })

/-- An Invalid symbol, in either state, leaves idle and reports whether a frame attempt was in progress and how many bits
were lost (R162; log 3 and log 4 as above). -/
def Obligations.InvalidAbortsAttempt : Prop :=
  ∀ (s : State) (p : Pulse),
    exec (.invalid p) s = .next { s with
      rx := { rxSt := .waiting, nbits := 0, expLen := 0, buf := [] },
      rxResult := some (.fail (.timingInvalid .invalidPulse (s.rx.rxSt == .collecting) s.rx.nbits)),
      txResult := none, statusOut := none }

/-- `RX_PULSE` runs the row that its pulse classifies as (R261 over the pulse rows; that the pulse rows are receive steps
of their own is the model's choice, log 4). -/
def Obligations.RxPulseRunsClassifiedRow : Prop :=
  ∀ (s : State) (p : Pulse), exec (.rxPulse p) s = exec (decodePulse s.win p) s

/-- The four rules of the symbol step that need no buffer, for a pulse that the host hands over: a start, an abort, a
restart, and a data bit while scanning (R161, R162, R163, R165). -/
def Obligations.RxPulseArms : Prop :=
  ∀ (s : State) (p : Pulse),
    (classify s.win p = .preamble → s.rx.rxSt = .waiting →
      ∃ t, exec (.rxPulse p) s = .next t
        ∧ t.rx = { rxSt := .collecting, nbits := 0, expLen := 0, buf := [] }
        ∧ t.rxResult = none ∧ t.cfg = s.cfg ∧ t.win = s.win ∧ t.input = s.input)
    ∧ (classify s.win p = .invalid →
      ∃ t, exec (.rxPulse p) s = .next t
        ∧ t.rx = { rxSt := .waiting, nbits := 0, expLen := 0, buf := [] }
        ∧ t.rxResult = some (.fail (.timingInvalid .invalidPulse (s.rx.rxSt == .collecting) s.rx.nbits))
        ∧ t.cfg = s.cfg ∧ t.win = s.win ∧ t.input = s.input)
    ∧ (classify s.win p = .zero ∨ classify s.win p = .one → s.rx.rxSt = .waiting →
      ∃ t, exec (.rxPulse p) s = .next t
        ∧ t.rx = s.rx ∧ t.rxResult = none ∧ t.cfg = s.cfg ∧ t.win = s.win ∧ t.input = s.input)
    ∧ (classify s.win p = .preamble → s.rx.rxSt = .collecting →
      ∃ t, exec (.rxPulse p) s = .next t
        ∧ t.rx = { rxSt := .collecting, nbits := 0, expLen := 0, buf := [] }
        ∧ t.rxResult = some (.fail (.timingInvalid .unexpectedPreamble true s.rx.nbits))
        ∧ t.cfg = s.cfg ∧ t.win = s.win ∧ t.input = s.input)

/-- `RX_PULSE` in any state of the invariant completes: classify, `asm_step`, and `dispatch` of a whole frame, which is
`parse` of it; a failure is one of the four receive kinds (R261). -/
def Obligations.RxPulseResult : Prop :=
  ∀ (s : State) (p : Pulse), s.Inv →
    let chk := checksumOf s.cfg.checksum
    let a := asmStep chk s.rx (classify s.win p)
    ∃ t, exec (.rxPulse p) s = .next t
      ∧ t.rx = a.1
      ∧ t.rxResult = (match a.2 with
          | none => none
          | some (.fail x) => some (.fail x)
          | some (.ok f) => some (dispatch f))
      ∧ (∀ f, a.2 = some (.ok f) → t.rxResult = some (parse chk f))
      ∧ (∀ x, t.rxResult = some (.fail x) →
          (∃ c b n, x = .timingInvalid c b n) ∨ (∃ f, x = .checksumMismatch f) ∨ (∃ f, x = .unrecognizedFormat f)
            ∨ ∃ fl f, x = .invalidField fl f)
      ∧ t.cfg = s.cfg ∧ t.win = s.win ∧ t.input = s.input

/-- The state after a failure of a receive step is the one the table of R283 gives for its kind (R283; the two
kinds that no receive step gives are R282 and R287). -/
def Obligations.FailureStateChange : Prop :=
  ∀ (s t : State) (p : Pulse) (f : Failure),
    exec (.rxPulse p) s = .next t → t.rxResult = some (.fail f) →
    (∀ c n, f = .timingInvalid .invalidPulse c n → t.rx = RxState.idle)
    ∧ (∀ c n, f = .timingInvalid .unexpectedPreamble c n → t.rx = RxState.start)
    ∧ (∀ fr, f = .checksumMismatch fr → t.rx = RxState.idle)
    ∧ (∀ fr, f = .unrecognizedFormat fr → t.rx = RxState.idle)
    ∧ (∀ fl fr, f = .invalidField fl fr → t.rx = RxState.idle)
    ∧ f ≠ .preambleNotFound ∧ ∀ fl, f ≠ .constructionError fl

/-! ### The frame rows -/

/-- The three sensor rows: the checksum of the body, then the serial, then the event code, each with its failure
(R205, R207, R208, R209; that a frame row is `parse` of its bytes is the model's choice, log 4, and that the other two
ports are then empty is log 3). -/
def Obligations.SensorFrameResults : Prop :=
  ∀ (s : State) (q : Nibble) (c : Serial) (e k : Byte),
    let out := fun (r : RxResult) => { s with rxResult := some r, txResult := none, statusOut := none }
    let sb : Bytes := [c.c0, c.c1, c.c2, c.c3, c.c4]
    let ascii := sb.all (fun x => decide (x.toNat < 128))
    let chk := checksumOf s.cfg.checksum
    let be : Bytes := [0x05, 0x1#4 ++ q] ++ sb ++ [e]
    let bm : Bytes := [0x04, 0x1#4 ++ q] ++ sb ++ [e]
    let bk : Bytes := [0x02, 0x1#4 ++ q] ++ sb ++ [e]
    (exec (.entry q c e k) s = .next (out (
        if chk be ≠ k then .fail (.checksumMismatch (be ++ [k]))
        else if ascii = false then .fail (.invalidField .serial (be ++ [k]))
        else if e = 0x01 then .ok (.entrySensor c q .opened)
        else if e = 0x02 then .ok (.entrySensor c q .closed)
        else .fail (.invalidField .event (be ++ [k])))))
    ∧ (exec (.motion q c e k) s = .next (out (
        if chk bm ≠ k then .fail (.checksumMismatch (bm ++ [k]))
        else if ascii = false then .fail (.invalidField .serial (bm ++ [k]))
        else if e = 0x00 then .ok (.motionSensor c q .heartbeat)
        else if e = 0x01 then .ok (.motionSensor c q .motion)
        else .fail (.invalidField .event (bm ++ [k])))))
    ∧ (exec (.keychain q c e k) s = .next (out (
        if chk bk ≠ k then .fail (.checksumMismatch (bk ++ [k]))
        else if ascii = false then .fail (.invalidField .serial (bk ++ [k]))
        else if e = 0x01 then .ok (.keychainRemote c q .panic)
        else if e = 0x02 then .ok (.keychainRemote c q .away)
        else if e = 0x03 then .ok (.keychainRemote c q .off)
        else .fail (.invalidField .event (bk ++ [k])))))

/-- The two keypad rows: checksum, then fields by ascending offset (R204, R205, R210, R211; log 4 and
log 3 as above). -/
def Obligations.PinFrameResults : Prop :=
  ∀ (s : State) (q : Nibble) (c b : Serial) (d : Pin) (r k : Byte),
    let out := fun (r : RxResult) => { s with rxResult := some r, txResult := none, statusOut := none }
    let sb : Bytes := [c.c0, c.c1, c.c2, c.c3, c.c4]
    let bb : Bytes := [b.c0, b.c1, b.c2, b.c3, b.c4]
    let ascii := fun (l : Bytes) => l.all (fun x => decide (x.toNat < 128))
    let chk := checksumOf s.cfg.checksum
    let fq : Bytes := [0x01, 0x2#4 ++ q] ++ sb ++ [d.d0 ++ d.d1, d.d2 ++ d.d3]
    let fr : Bytes := [0x01, 0x3#4 ++ q] ++ sb ++ bb ++ [r]
    (exec (.pinreq q c d k) s = .next (out (
        if chk fq ≠ k then .fail (.checksumMismatch (fq ++ [k]))
        else if ascii sb = false then .fail (.invalidField .serial (fq ++ [k]))
        else if 9 < d.d0.toNat ∨ 9 < d.d1.toNat ∨ 9 < d.d2.toNat ∨ 9 < d.d3.toNat then
          .fail (.invalidField .pin (fq ++ [k]))
        else .ok (.pinRequest c q d))))
    ∧ (exec (.pinresp q c b r k) s = .next (out (
        if chk fr ≠ k then .fail (.checksumMismatch (fr ++ [k]))
        else if ascii sb = false then .fail (.invalidField .serial (fr ++ [k]))
        else if ascii bb = false then .fail (.invalidField .baseSerial (fr ++ [k]))
        else if r = 0x01 then .ok (.pinResponse c q b .valid)
        else if r = 0x02 then .ok (.pinResponse c q b .invalid)
        else .fail (.invalidField .response (fr ++ [k])))))

/-- The `UNKNOWN` row: bytes of no class row give `UnrecognizedFormat` with all their bytes where their length is out of
2..14 or their checksum holds, else `ChecksumMismatch` (R167, R205, R206; the row's lengths are log 5; that the row is
`parse` of its bytes is log 4, and that the transmit result and the status view are then empty is log 3). -/
def Obligations.UnknownFrameResult : Prop :=
  ∀ (s : State) (f : Bytes), classOfFrame f = none →
    exec (.unknown f) s = .next { s with
      rxResult := some (
        if f.length < 2 ∨ 14 < f.length then .fail (.unrecognizedFormat f)
        else if checksumOf s.cfg.checksum f.dropLast = f.getD (f.length - 1) 0 then .fail (.unrecognizedFormat f)
        else .fail (.checksumMismatch f))
      txResult := none
      statusOut := none }

/-- Whatever bytes are presented, the row they decode to gives `parse` of exactly those bytes and leaves the receive
state alone (R203, R205, R283; the rows as `parse` are log 4, the emptied ports log 3). -/
def Obligations.FrameRowsAreParse : Prop :=
  ∀ (s : State) (f : Bytes),
    exec (decodeFrame f) s = .next { s with
      rxResult := some (parse (checksumOf s.cfg.checksum) f), txResult := none, statusOut := none }

/-! ### The host operations -/

/-- `RESET(cfg)` with `cfg_ok` constructs the instance anew, whatever the state before: the configuration as given, its
six window constants, idle, nothing pending on the result ports (R49, R320). -/
def Obligations.ResetConstructs : Prop :=
  ∀ (s : State) (c : Cfg), cfgOk c = true →
    ∃ t, exec (.reset c) s = .next t
      ∧ t.cfg = c
      ∧ t.win = { zLo := c.tZero - c.tZero * c.tolBitPct / 100, zHi := c.tZero + c.tZero * c.tolBitPct / 100,
                  oLo := c.tOne - c.tOne * c.tolBitPct / 100, oHi := c.tOne + c.tOne * c.tolBitPct / 100,
                  pLo := c.tPre - c.tPre * c.tolPrePct / 100, pHi := c.tPre + c.tPre * c.tolPrePct / 100 }
      ∧ t.rx = { rxSt := .waiting, nbits := 0, expLen := 0, buf := [] }
      ∧ (∀ a, Memory.read t.rx.buf a = 0)
      ∧ t.rxResult = none ∧ t.txResult = none ∧ t.input = s.input

/-- `RESET(cfg)` without `cfg_ok` is refused (R260, R321); that this is a refusal of `step` is deduced (R288; log 8), and
the channel goes on by ResetConstructsAgainAfterRefusal. -/
def Obligations.ResetRefusesBadCfg : Prop :=
  ∀ (s : State) (c : Cfg), cfgOk c = false → exec (.reset c) s = .refused .cfgNotOk

/-- `RX_CLEAR` writes idle, reports nothing, and in `WaitingPreamble` changes nothing (R263). -/
def Obligations.RxClearWritesIdle : Prop :=
  ∀ s : State,
    ∃ t, exec .rxClear s = .next t
      ∧ t.rx = { rxSt := .waiting, nbits := 0, expLen := 0, buf := [] }
      ∧ t.rxResult = none ∧ t.cfg = s.cfg ∧ t.win = s.win ∧ t.input = s.input
      ∧ (s.Inv → s.rx.rxSt = .waiting → t.rx = s.rx)

/-- `STATUS` gives (`RX_ST`, `NBITS`, `EXP_LEN`) and writes no state (R269). -/
def Obligations.StatusGivesTheView : Prop :=
  ∀ s : State,
    ∃ t, exec .status s = .next t
      ∧ t.statusOut = some { rxSt := s.rx.rxSt, nbits := s.rx.nbits, expLen := s.rx.expLen }
      ∧ t.rx = s.rx ∧ t.cfg = s.cfg ∧ t.win = s.win ∧ t.input = s.input

/-- `TX_MSG`: arguments that a constructor rejects give its `ConstructionError` and no pulse; arguments it accepts give
the whole pulse sequence of the message's frame, first the High preamble mark, then bit `7 - (k mod 8)` of byte `k div 8`
as pulse `k + 1`, levels alternating, nominal durations. No state is written (R264). -/
def Obligations.TxMsgResult : Prop :=
  ∀ (s : State) (r : TxReq),
    (∀ f : Failure, construct r = .error f →
      (∃ fl : Field, f = .constructionError fl)
      ∧ ∃ t, exec (.txMsg r) s = .next t ∧ t.txResult = some (.fail f)
        ∧ t.rx = s.rx ∧ t.cfg = s.cfg ∧ t.win = s.win ∧ t.input = s.input)
    ∧ (∀ m : Message, construct r = .ok m →
      let f := serialize (checksumOf s.cfg.checksum) m
      ∃ (t : State) (ps : List Pulse),
        exec (.txMsg r) s = .next t ∧ t.txResult = some (.pulses ps)
        ∧ t.rx = s.rx ∧ t.cfg = s.cfg ∧ t.win = s.win ∧ t.input = s.input
        ∧ ps.length = 1 + 8 * f.length
        ∧ ps[0]? = some ⟨.high, BitVec.ofNat 16 s.cfg.tPre⟩
        ∧ ∀ k : Nat, k < 8 * f.length →
            ps[k + 1]? = some ⟨if k % 2 = 0 then .low else .high,
              BitVec.ofNat 16 (if (byteAt f (k / 8)).getLsbD (7 - k % 8) then s.cfg.tOne else s.cfg.tZero)⟩)

/-- After every operation each of the three ports holds that operation's output, or nothing where it gives none: after
`RX_PULSE` and the pulse rows the result of the receive step, if there is one; after the frame rows the result of
`parse`; after `RESET` and `RX_CLEAR` nothing; after `TX_MSG` the error of the constructor or the pulses; after `STATUS`
the view (R260 to R269; how long an output stands on its port is the model's choice, log 3, the pulse and frame rows as
operations are log 4). -/
def Obligations.PortsHoldTheOperationsOutput : Prop :=
  ∀ (s t : State) (p : Pulse) (f : Bytes) (c : Cfg) (r : TxReq),
    (∀ i ∈ [Instr.rxPulse p, decodePulse s.win p], exec i s = .next t →
      t.rxResult = (rxStep (checksumOf s.cfg.checksum) s.win s.rx p).2 ∧ t.txResult = none ∧ t.statusOut = none)
    ∧ (exec (decodeFrame f) s = .next t →
      t.rxResult = some (parse (checksumOf s.cfg.checksum) f) ∧ t.txResult = none ∧ t.statusOut = none)
    ∧ (∀ i ∈ [Instr.reset c, .rxClear], exec i s = .next t →
      t.rxResult = none ∧ t.txResult = none ∧ t.statusOut = none)
    ∧ (exec (.txMsg r) s = .next t →
      t.rxResult = none ∧ t.statusOut = none
      ∧ (∀ e, construct r = .error e → t.txResult = some (.fail e))
      ∧ (∀ m, construct r = .ok m →
          t.txResult = some (.pulses (wire s.cfg (serialize (checksumOf s.cfg.checksum) m)))))
    ∧ (exec .status s = .next t →
      t.rxResult = none ∧ t.txResult = none ∧ t.statusOut = some ⟨s.rx.rxSt, s.rx.nbits, s.rx.expLen⟩)

/-- The constructors check their arguments in written order, report the first that fails, and take an accepted argument
as it is (R213 to R221). -/
def Obligations.ConstructorsCheckInWrittenOrder : Prop :=
  let serialOkArg := fun (t : Bytes) => t.length = 5 ∧
    ∀ c ∈ t, (0x30 ≤ c.toNat ∧ c.toNat ≤ 0x39) ∨ (0x41 ≤ c.toNat ∧ c.toNat ≤ 0x5A)
  let pinOkArg := fun (t : Bytes) => t.length = 4 ∧ ∀ c ∈ t, 0x30 ≤ c.toNat ∧ c.toNat ≤ 0x39
  let ser := fun (t : Bytes) => (⟨byteAt t 0, byteAt t 1, byteAt t 2, byteAt t 3, byteAt t 4⟩ : Serial)
  let digit := fun (b : Byte) => BitVec.ofNat 4 (b.toNat - 0x30)
  ∀ (t b pn : Bytes) (n : Nat) (e : EntryEvent) (mo : MotionEvent) (ke : KeychainEvent) (pr : PinResponse),
    (¬ serialOkArg t →
      construct (.entrySensor t n e) = .error (.constructionError .serial)
      ∧ construct (.motionSensor t n mo) = .error (.constructionError .serial)
      ∧ construct (.keychainRemote t n ke) = .error (.constructionError .serial)
      ∧ construct (.pinRequest t n pn) = .error (.constructionError .serial)
      ∧ construct (.pinResponse t n b pr) = .error (.constructionError .serial))
    ∧ (serialOkArg t → 15 < n →
      construct (.entrySensor t n e) = .error (.constructionError .sequence)
      ∧ construct (.motionSensor t n mo) = .error (.constructionError .sequence)
      ∧ construct (.keychainRemote t n ke) = .error (.constructionError .sequence)
      ∧ construct (.pinRequest t n pn) = .error (.constructionError .sequence)
      ∧ construct (.pinResponse t n b pr) = .error (.constructionError .sequence))
    ∧ (serialOkArg t → n ≤ 15 →
      construct (.entrySensor t n e) = .ok (.entrySensor (ser t) (BitVec.ofNat 4 n) e)
      ∧ construct (.motionSensor t n mo) = .ok (.motionSensor (ser t) (BitVec.ofNat 4 n) mo)
      ∧ construct (.keychainRemote t n ke) = .ok (.keychainRemote (ser t) (BitVec.ofNat 4 n) ke)
      ∧ (¬ pinOkArg pn → construct (.pinRequest t n pn) = .error (.constructionError .pin))
      ∧ (pinOkArg pn → construct (.pinRequest t n pn) = .ok (.pinRequest (ser t) (BitVec.ofNat 4 n)
          ⟨digit (byteAt pn 0), digit (byteAt pn 1), digit (byteAt pn 2), digit (byteAt pn 3)⟩))
      ∧ (¬ serialOkArg b → construct (.pinResponse t n b pr) = .error (.constructionError .baseSerial))
      ∧ (serialOkArg b → construct (.pinResponse t n b pr)
          = .ok (.pinResponse (ser t) (BitVec.ofNat 4 n) (ser b) pr)))

/-- What a constructor gives is a `Message` in its field domains, and so is what `parse` gives (R201, R213, R231). -/
def Obligations.MessagesAreInTheirDomains : Prop :=
  (∀ (r : TxReq) (m : Message), construct r = .ok m → messageOk m = true)
  ∧ (∀ (chk : Bytes → Byte) (f : Bytes) (m : Message), parse chk f = .ok m → messageOk m = true)

/-! ### Frames: what each instruction leaves alone -/

/-- The receive rows and `RX_PULSE` leave the configuration, the window constants, the host's requests and the other
ports' silence alone; they write the receive state and `rx_result` only (R37, R261, R283; the pulse rows are
log 4, the emptied ports log 3). -/
def Obligations.ReceiveRowsFrame : Prop :=
  ∀ (s t : State) (p : Pulse) (d : BitVec 16) (i : Instr),
    i ∈ [Instr.zero p, .one p, .preamble d, .invalid p, .rxPulse p] →
    exec i s = .next t →
    t.cfg = s.cfg ∧ t.win = s.win ∧ t.input = s.input ∧ t.txResult = none ∧ t.statusOut = none

/-- What a data bit leaves of `BUF`: while scanning every byte; while collecting every byte but byte `NBITS div 8`, the
one it is shifted into; in the step that completes the frame the buffer is all zero (R35, R48, R164, R166). -/
def Obligations.DataBitFrameOfBuf : Prop :=
  ∀ (s t : State) (p : Pulse) (i : Instr),
    i ∈ [Instr.zero p, .one p] → s.Inv → exec i s = .next t →
    (s.rx.rxSt = .waiting → t.rx = s.rx ∧ ∀ a, Memory.read t.rx.buf a = Memory.read s.rx.buf a)
    ∧ (s.rx.rxSt = .collecting → t.rx.rxSt = .collecting →
        ∀ a, a ≠ s.rx.nbits.toNat / 8 → Memory.read t.rx.buf a = Memory.read s.rx.buf a)
    ∧ (s.rx.rxSt = .collecting → t.rx.rxSt = .waiting → t.rx = RxState.idle ∧ ∀ a, Memory.read t.rx.buf a = 0)

/-- `BUF` is cleared by every Preamble symbol, every abort, `RX_CLEAR` and `RESET`; the first three leave everything but
the receive state and the ports alone, `RESET` everything but these and the configuration (R35, R260, R263; the
pulse rows are log 4, the emptied ports log 3). -/
def Obligations.ClearingRowsFrame : Prop :=
  ∀ (s t : State) (p : Pulse) (d : BitVec 16) (c : Cfg),
    (∀ i ∈ [Instr.preamble d, .invalid p, .rxClear], exec i s = .next t →
      (∀ a, Memory.read t.rx.buf a = 0) ∧ t.rx.nbits = 0 ∧ t.rx.expLen = 0
      ∧ t.cfg = s.cfg ∧ t.win = s.win ∧ t.input = s.input ∧ t.txResult = none ∧ t.statusOut = none)
    ∧ (exec (.reset c) s = .next t →
      (∀ a, Memory.read t.rx.buf a = 0) ∧ t.rx.rxSt = .waiting ∧ t.rx.nbits = 0 ∧ t.rx.expLen = 0
      ∧ t.cfg = c ∧ t.win = windowsOf c ∧ t.input = s.input)

/-- The frame rows, `TX_MSG` and `STATUS` leave the whole receive state with every byte of `BUF`, the configuration and
the host's requests alone (R37, R46, R205, R269, R283). -/
def Obligations.NonReceivingRowsFrame : Prop :=
  ∀ (s t : State) (q : Nibble) (c b : Serial) (e k : Byte) (d : Pin) (f : Bytes) (r : TxReq) (i : Instr),
    i ∈ [Instr.entry q c e k, .motion q c e k, .keychain q c e k, .pinreq q c d k, .pinresp q c b e k, .unknown f,
          .txMsg r, .status] →
    exec i s = .next t →
    t.rx = s.rx ∧ (∀ a, Memory.read t.rx.buf a = Memory.read s.rx.buf a)
    ∧ t.cfg = s.cfg ∧ t.win = s.win ∧ t.input = s.input

/-- `Cfg` and the six constants derived from it change only in a `RESET` step (R38, R75, R260). -/
def Obligations.OnlyResetChangesCfg : Prop :=
  ∀ s t : State, step s = .next t → (t.cfg ≠ s.cfg ∨ t.win ≠ s.win) →
    ∃ (c : Cfg) (rest : List Input), s.input = .port (.reset c) :: rest ∧ t.cfg = c ∧ t.win = windowsOf c

/-- `TX_MSG` is a function of its request and the configuration alone: two instances with one configuration give equal
outputs whatever their receive states (R46, R71). -/
def Obligations.TxMsgIgnoresReceiveState : Prop :=
  ∀ (s s' t t' : State) (r : TxReq),
    s.cfg = s'.cfg → exec (.txMsg r) s = .next t → exec (.txMsg r) s' = .next t' →
    t.txResult = t'.txResult ∧ t.rx = s.rx ∧ t'.rx = s'.rx

/-! ### Invariants of every step -/

/-- Every step keeps the invariant: the receive state of R36 with `BUF` in canonical form, a configuration with which an
instance can exist, the window constants derived from it (the spec's own inference R36, "true after reset and kept by every step"; R39, R41). -/
def Obligations.StepKeepsInvariant : Prop :=
  ∀ s t : State, s.Inv → step s = .next t → t.Inv

/-- The state after reset is the table of R49 for `Cfg.default` and meets the invariant (R36, R49; that reset constructs
with `Cfg.default` is the model's choice, log 7). -/
def Obligations.ResetMeetsInvariant : Prop :=
  State.reset.Inv
  ∧ State.reset.rx = { rxSt := .waiting, nbits := 0, expLen := 0, buf := [] }
  ∧ (∀ a, Memory.read State.reset.rx.buf a = 0)
  ∧ State.reset.cfg = cfgDefault ∧ State.reset.win = windowsOf cfgDefault
  ∧ State.reset.rxResult = none ∧ State.reset.txResult = none ∧ State.reset.statusOut = none

/-- The bounds of `NBITS` and `EXP_LEN` in the invariant: 0 while scanning, below 16 while the length is unknown, from 16
to below `8 * EXP_LEN` once it is 9, 10 or 14, never above 111 (the spec's own inference R32, "Its largest stored value is
`8 * 14 - 1 = 111`"; R33). -/
def Obligations.NbitsAndExpLenBounds : Prop :=
  ∀ s : State, s.Inv →
    s.rx.nbits.toNat ≤ 111
    ∧ (s.rx.rxSt = .waiting → s.rx.nbits = 0 ∧ s.rx.expLen = 0)
    ∧ (s.rx.rxSt = .collecting → s.rx.expLen = 0 → s.rx.nbits.toNat < 16)
    ∧ (s.rx.rxSt = .collecting → s.rx.expLen ≠ 0 →
        16 ≤ s.rx.nbits.toNat ∧ s.rx.nbits.toNat < 8 * s.rx.expLen.toNat
        ∧ (s.rx.expLen.toNat = 9 ∨ s.rx.expLen.toNat = 10 ∨ s.rx.expLen.toNat = 14))

/-- Nothing is fatal: no step from a state of the invariant is a machine fault (R293; the fault is the model's guard of
the storage space, log 1). -/
def Obligations.InvariantRulesOutFaults : Prop :=
  ∀ (s : State) (r : Fault), s.Inv → step s ≠ .fault r

/-- Every operation is available in every state and completes: whatever is presented runs to a next state, but for the
construction that R321 refuses (R67, R270, R321). -/
def Obligations.EveryOperationCompletes : Prop :=
  ∀ (s : State) (x : Input) (rest : List Input),
    s.Inv → s.input = x :: rest → (∀ c, x = .port (.reset c) → cfgOk c = true) →
    ∃ t : State, step s = .next t ∧ t.input = rest

/-- The result ports hold what R262 and R264 allow: on `rx_result` a message in its domains or one of the four receive
failures (never `PreambleNotFound`), on `tx_result` pulses or a `ConstructionError`, and one output at most
(R264, R282; the spec's own inference R262; how long an output stands is log 3). -/
def Obligations.PortsHoldLegalResults : Prop :=
  ∀ s t : State, portsOk s = true → oneOutput s = true → step s = .next t →
    portsOk t = true ∧ oneOutput t = true

/-! ### The pipelines and their laws -/

/-- Pulse level: decoding what `encode` gives returns the symbols, for every sequence in its domain; every sequence of
data bits is in it (the spec's own inference R138, "Round trip at pulse level"). -/
def Obligations.PulseRoundTrip : Prop :=
  ∀ (c : Cfg), cfgOk c = true →
    (∀ (syms : List TxSymbol) (ps : List Pulse), encodePulses c syms = some ps →
      decodePulses (windowsOf c) ps = syms.map symbolOfTx)
    ∧ (∀ b : List TxSymbol, (∀ x ∈ b, x ≠ .preamble) →
        ∃ ps, encodePulses c b = some ps ∧ decodePulses (windowsOf c) ps = b.map symbolOfTx)

/-- Shape of an encoded frame: `1 + 8n` pulses; pulse 0 is the High preamble mark; pulse `k + 1` is data bit `k`, Low where
`k` is even, with the nominal duration of its symbol; the last pulse is the last data bit, High (the mark where there is
no bit); and the air time by the numbers of 0 and 1 bits (the spec's own inference R137, "Shape of an encoded frame"). -/
def Obligations.EncodedFrameShape : Prop :=
  ∀ (c : Cfg) (f : Bytes), cfgOk c = true →
    let dataBit := fun (k : Nat) =>
      if (byteAt f (k / 8)).getLsbD (7 - k % 8) then TxSymbol.one else TxSymbol.zero
    ∃ ps : List Pulse, encodePulses c (.preamble :: bits f) = some ps
      ∧ ps.length = 1 + 8 * f.length
      ∧ ps[0]? = some ⟨.high, nominal c .preamble⟩
      ∧ (∀ k : Nat, k < 8 * f.length →
          ps[k + 1]? = some ⟨if k % 2 = 0 then .low else .high, nominal c (dataBit k)⟩)
      ∧ ps.getLast? = some ⟨.high, nominal c (if f = [] then .preamble else dataBit (8 * f.length - 1))⟩
      ∧ airTime ps = c.tPre + (bits f).count .zero * c.tZero + (bits f).count .one * c.tOne

/-- Frame level: a body whose header announces the body's own frame length comes back as exactly its frame and leaves
idle; a body whose header announces another length does not (the spec's own inference R178, "Round trip at frame
level"). -/
def Obligations.FrameRoundTrip : Prop :=
  ∀ (chk : Bytes → Byte) (b : Bytes), 2 ≤ b.length →
    (frameLen (byteAt b 0) (hiNibble (byteAt b 1)) = b.length + 1 →
      assembleFrom chk RxState.idle ((disassemble b chk).map symbolOfTx) = ([.ok (frameOf chk b)], RxState.idle))
    ∧ (frameLen (byteAt b 0) (hiNibble (byteAt b 1)) ≠ b.length + 1 →
      assemble chk ((disassemble b chk).map symbolOfTx) ≠ [.ok (frameOf chk b)])

/-- A packed body announces its own frame's length (the spec's own inference in R222, "the frame the Frame Assembler builds
from it has the length its own header announces"). -/
def Obligations.BodyAnnouncesItsLength : Prop :=
  ∀ m : Message, (body m).length + 1 = frameLen (byteAt (body m) 0) (hiNibble (byteAt (body m) 1))

/-- Message level: parsing a serialized message gives it back, for every checksum function and every message in its
field domains (the spec's own inference R229, "Round trip"). -/
def Obligations.ParseOfSerialize : Prop :=
  ∀ (chk : Bytes → Byte) (m : Message), messageOk m = true → parse chk (serialize chk m) = .ok m

/-- The other direction: a frame that parses to a message is that message serialized (the spec's own inference R230,
"serialize(Cfg, m) = f"). -/
def Obligations.SerializeOfParse : Prop :=
  ∀ (chk : Bytes → Byte) (f : Bytes) (m : Message), parse chk f = .ok m → serialize chk m = f

/-- End to end: the pulses that `TX_MSG` gives, received from idle under the same configuration, give exactly the one
message and end in idle (the spec's own inference R267, "End-to-end round trip"). -/
def Obligations.TransmittedMessageIsReceived : Prop :=
  ∀ (s t : State) (r : TxReq) (ps : List Pulse),
    s.Inv → exec (.txMsg r) s = .next t → t.txResult = some (.pulses ps) →
    ∃ m : Message, construct r = .ok m
      ∧ rxStream (checksumOf s.cfg.checksum) s.win RxState.idle ps = ([.ok m], RxState.idle)

/-- The stream view: the results of the pulses one by one are those of `assemble` over `decode`, each whole frame through
`dispatch`, and the state is the fold's (the spec's own inferences R72 and R266). -/
def Obligations.StreamIsThePipeline : Prop :=
  ∀ (chk : Bytes → Byte) (w : Windows) (ps : List Pulse),
    (rxStream chk w RxState.idle ps).1 = (assemble chk (decodePulses w ps)).map resultOfAsm
    ∧ (rxStream chk w RxState.idle ps).2 = (assembleFrom chk RxState.idle (decodePulses w ps)).2

/-- The machine's run over pulses presented one by one is the stream view: from every state of the invariant every one of
its steps goes on, the results of the steps in order are the stream's, and it ends in the stream's final state with the
configuration unchanged (R70, R261; the spec's own inferences R72 and R266; the list of requests is log 2, that a step's
result is what stands on its port after it is log 3). -/
def Obligations.RunOfPulsesIsTheStream : Prop :=
  ∀ (s : State) (ps : List Pulse), s.Inv →
    let s0 := { s with input := ps.map (fun p => Input.port (.rxPulse (pulseWord p))) }
    let stream := rxStream (checksumOf s.cfg.checksum) s.win s.rx ps
    ∃ ts : List State,
      ts.length = ps.length
      ∧ (∀ (k : Nat) (t : State), ts[k]? = some t → Host.Core.run Sys2Proof.core (k + 1) s0 = .next t)
      ∧ ts.filterMap (fun t => t.rxResult) = stream.1
      ∧ ∃ t : State, Host.Core.run Sys2Proof.core ps.length s0 = .next t
        ∧ t.rx = stream.2 ∧ t.cfg = s.cfg ∧ t.win = s.win ∧ t.input = []

/-- Noise and gaps: one Invalid pulse between two frames that the block would receive costs one `TimingInvalid` and
neither frame; a Low gap of any duration costs at most that; no gap costs nothing (the spec's own inference R179). -/
def Obligations.NoiseAndGapResilience : Prop :=
  ∀ (c : Cfg) (b1 b2 : Bytes) (x : Pulse),
    cfgOk c = true → 2 ≤ b1.length → 2 ≤ b2.length →
    frameLen (byteAt b1 0) (hiNibble (byteAt b1 1)) = b1.length + 1 →
    frameLen (byteAt b2 0) (hiNibble (byteAt b2 1)) = b2.length + 1 →
    let chk := checksumOf c.checksum
    let w := windowsOf c
    let f1 := frameOf chk b1
    let f2 := frameOf chk b2
    let noise : RxResult := .fail (.timingInvalid .invalidPulse false 0)
    (classify w x = .invalid →
      rxStream chk w RxState.idle (wire c f1 ++ [x] ++ wire c f2)
        = ([dispatch f1, noise, dispatch f2], RxState.idle))
    ∧ (x.level = .low →
      rxStream chk w RxState.idle (wire c f1 ++ [x] ++ wire c f2)
        = (if classify w x = .invalid then [dispatch f1, noise, dispatch f2] else [dispatch f1, dispatch f2],
            RxState.idle))
    ∧ rxStream chk w RxState.idle (wire c f1 ++ wire c f2) = ([dispatch f1, dispatch f2], RxState.idle)

/-- A frame without a Preamble symbol is invisible: from idle, pulses that are data bits give no result and leave idle
(R163; the spec's own inference R330, "A frame without a Preamble symbol is invisible"). -/
def Obligations.NoPreambleNoFrame : Prop :=
  ∀ (chk : Bytes → Byte) (w : Windows) (ps : List Pulse),
    (∀ p ∈ ps, classify w p = .zero ∨ classify w p = .one) →
    rxStream chk w RxState.idle ps = ([], RxState.idle)

/-- The three defined reductions change under a flip of any one bit of a non-empty body (R42; the spec's own inference in R174,
"All three give 0 on the empty body and all three satisfy `chk_single_bit`"). -/
def Obligations.DefinedChecksumsSeeSingleBits : Prop :=
  ChkSingleBit sum8 ∧ ChkSingleBit xor8 ∧ ChkSingleBit crc8

/-- Checksum sensitivity: under a reduction with `chk_single_bit`, a frame with one body bit flipped fails the test, and
`parse` of a frame of legal length reports the mismatch (the spec's own inference R180, "Checksum sensitivity"; R205). -/
def Obligations.FlippedBodyBitIsAMismatch : Prop :=
  ∀ (chk : Bytes → Byte) (b : Bytes) (i j : Nat), ChkSingleBit chk → i < b.length → j < 8 →
    let f' := flipBit (frameOf chk b) i j
    validate chk f' = .fail (.checksumMismatch f')
    ∧ (b.length + 1 ≤ 14 → parse chk f' = .fail (.checksumMismatch f'))

/-- The result record determines the result on each of the two ports, for every result whose frame fits the record (an
inference from the layout of R301; a frame that does not fit is log 21). -/
def Obligations.RecordDeterminesResult : Prop :=
  (∀ r r' : RxResult,
    (∀ f, r = .fail f → (failureFrame f).length ≤ 14) → (∀ f, r' = .fail f → (failureFrame f).length ≤ 14) →
    rxRecord r = rxRecord r' → r = r')
  ∧ (∀ r r' : TxResult,
    (∀ f, r = .fail f → (failureFrame f).length ≤ 14) → (∀ f, r' = .fail f → (failureFrame f).length ≤ 14) →
    txRecord r = txRecord r' → r = r')

/-- Channels are independent: whatever the interleaving of steps, a channel ends as if it had made its own steps alone, be
the steps of other channels carried out, refused or faulted (R51, R71, R270, R298; the list of channels is log 10). -/
def Obligations.ChannelsAreIndependent : Prop :=
  ∀ (p : Platform) (schedule : List Nat) (j : Nat),
    (p.run schedule)[j]? = (p[j]?).map (Channel.step^[schedule.count j])

/-- `RESET` may be performed again at any time (R260): a `RESET` without `cfg_ok` leaves a channel without its instance
(R321), whatever the host then requests that is no `RESET` with `cfg_ok` leaves it so, and the first `RESET` with `cfg_ok`
constructs it as from reset, the requests after it still to come. That the requests between are dropped is the model's
choice (log 19); the list of requests is log 2, the emptied status view log 3. -/
def Obligations.ResetConstructsAgainAfterRefusal : Prop :=
  (∀ (s : State) (c : Cfg) (rest : List Input),
    s.input = .port (.reset c) :: rest → cfgOk c = false →
    (Channel.live s).step = .absent (.refused .cfgNotOk) rest)
  ∧ (∀ (why : Absence) (between : List Input) (c : Cfg) (rest : List Input),
    (∀ x ∈ between, ∀ b, x = .port (.reset b) → cfgOk b = false) → cfgOk c = true →
    (∀ k, k ≤ between.length → ∃ why',
      Channel.step^[k] (.absent why (between ++ .port (.reset c) :: rest))
        = .absent why' (between.drop k ++ .port (.reset c) :: rest))
    ∧ Channel.step^[between.length + 1] (.absent why (between ++ .port (.reset c) :: rest))
        = .live { cfg := c, win := windowsOf c, rx := RxState.idle, rxResult := none, txResult := none,
                  statusOut := none, input := rest })

/-- A transmit request over the port's width runs like any other: its constructor rejects it, no pulse is produced and no
state is written ("the constructors reject everything outside their domains whatever the bound", R265; that the request is
presented at all is log 11). -/
def Obligations.RequestOverThePortWidthIsRejected : Prop :=
  ∀ (s : State) (r : TxReq) (rest : List Input),
    s.input = .port (.txMsg r) :: rest → r.fitsPort = false →
    ∃ (t : State) (fl : Field),
      step s = .next t ∧ t.txResult = some (.fail (.constructionError fl))
      ∧ t.rx = s.rx ∧ t.cfg = s.cfg ∧ t.win = s.win ∧ t.input = rest
end

