-- ==== Sys2Proof/Laws/Memory.lean ====
section
/-!
SUPPORT. The storage space: what a write does to a read, and the canonical form, which every memory operation keeps.
-/

namespace Sys2Proof.Machine

@[simp] theorem Memory.read_nil (a : Nat) : Memory.read [] a = Memory.blank := rfl

/-- In canonical form no cell stands at or below an address that is below the first cell's. -/
theorem Memory.read_of_all_gt (m : Memory) (a : Nat) (h : ∀ c ∈ m, a < c.1) : Memory.read m a = Memory.blank := by
  induction m with
  | nil => rfl
  | cons c rest ih =>
    obtain ⟨b, v⟩ := c
    have hb : a < b := h (b, v) (by simp)
    simp only [Memory.read]
    rw [if_neg (by omega)]
    exact ih (fun c hc => h c (by simp [hc]))

theorem Memory.wf_cons (a : Nat) (v : Byte) (m : Memory) :
    Memory.wf ((a, v) :: m) = true ↔
      v ≠ Memory.blank ∧ a < Memory.size ∧ (∀ c ∈ m, a < c.1) ∧ Memory.wf m = true := by
  simp [Memory.wf, and_assoc]

theorem Memory.wf_nil : Memory.wf [] = true := rfl

/-- Every address that `write` lists was listed or is the one written. -/
theorem Memory.mem_write (m : Memory) (a : Nat) (v : Byte) (c : Host.Cell) (h : c ∈ Memory.write m a v) :
    c ∈ m ∨ c = (a, v) := by
  induction m with
  | nil =>
    simp only [Memory.write] at h
    split at h
    · simp at h
    · exact .inr (by simpa using h)
  | cons d rest ih =>
    obtain ⟨b, w⟩ := d
    simp only [Memory.write] at h
    split at h
    · split at h
      · exact .inl h
      · rcases List.mem_cons.mp h with h | h
        · exact .inr h
        · exact .inl h
    · split at h
      · split at h
        · exact .inl (by simp [h])
        · rcases List.mem_cons.mp h with h | h
          · exact .inr h
          · exact .inl (by simp [h])
      · rcases List.mem_cons.mp h with h | h
        · exact .inl (by simp [h])
        · rcases ih h with h | h
          · exact .inl (by simp [h])
          · exact .inr h

/-- `write` keeps the canonical form at every address of the space. -/
theorem Memory.wf_write (m : Memory) (a : Nat) (v : Byte) (ha : a < Memory.size) (h : Memory.wf m = true) :
    Memory.wf (Memory.write m a v) = true := by
  induction m with
  | nil =>
    simp only [Memory.write]
    split
    · rfl
    · rename_i hv
      exact (Memory.wf_cons a v []).mpr ⟨hv, ha, by simp, rfl⟩
  | cons d rest ih =>
    obtain ⟨b, w⟩ := d
    obtain ⟨hw, hb, hgt, hrest⟩ := (Memory.wf_cons b w rest).mp h
    simp only [Memory.write]
    split
    · rename_i hab
      split
      · exact h
      · rename_i hv
        refine (Memory.wf_cons a v _).mpr ⟨hv, ha, ?_, h⟩
        intro c hc
        rcases List.mem_cons.mp hc with rfl | hc
        · exact hab
        · exact Nat.lt_trans hab (hgt c hc)
    · split
      · rename_i hab
        split
        · exact hrest
        · rename_i hv
          exact (Memory.wf_cons a v rest).mpr ⟨hv, ha, by rw [hab]; exact hgt, hrest⟩
      · rename_i h1 h2
        refine (Memory.wf_cons b w _).mpr ⟨hw, hb, ?_, ih hrest⟩
        intro c hc
        rcases Memory.mem_write rest a v c hc with hc | rfl
        · exact hgt c hc
        · simp only; omega

/-- Read after write: the byte written at its address, every other byte as before. -/
theorem Memory.read_write (m : Memory) (a : Nat) (v : Byte) (h : Memory.wf m = true) (b : Nat) :
    Memory.read (Memory.write m a v) b = if b = a then v else Memory.read m b := by
  induction m with
  | nil =>
    simp only [Memory.write]
    split
    · rename_i hv
      split <;> simp [hv]
    · simp only [Memory.read]
  | cons d rest ih =>
    obtain ⟨c, w⟩ := d
    obtain ⟨_, _, hgt, hrest⟩ := (Memory.wf_cons c w rest).mp h
    simp only [Memory.write]
    split
    · rename_i hac
      split
      · rename_i hv
        split
        · rename_i hba
          subst hba
          rw [Memory.read_of_all_gt _ _ (by
            intro x hx
            rcases List.mem_cons.mp hx with rfl | hx
            · exact hac
            · exact Nat.lt_trans hac (hgt x hx)), hv]
        · rfl
      · simp only [Memory.read]
    · split
      · rename_i hac
        subst hac
        split
        · rename_i hv
          simp only [Memory.read]
          by_cases hba : b = a
          · subst hba
            simp only [if_true]
            rw [Memory.read_of_all_gt _ _ hgt, hv]
          · simp [hba]
        · simp only [Memory.read]
          by_cases hba : b = a <;> simp [hba]
      · simp only [Memory.read, ih hrest]
        by_cases hbc : b = c
        · subst hbc
          rename_i h1 h2
          simp [show b ≠ a by omega]
        · simp [hbc]

theorem Memory.read_write_same (m : Memory) (a : Nat) (v : Byte) (h : Memory.wf m = true) :
    Memory.read (Memory.write m a v) a = v := by simp [Memory.read_write m a v h]

theorem Memory.read_write_other (m : Memory) (a b : Nat) (v : Byte) (h : Memory.wf m = true) (hb : b ≠ a) :
    Memory.read (Memory.write m a v) b = Memory.read m b := by simp [Memory.read_write m a v h, hb]

/-- Canonical memories that read alike are equal data. -/
theorem Memory.ext_of_wf (m n : Memory) (hm : Memory.wf m = true) (hn : Memory.wf n = true)
    (h : ∀ a, Memory.read m a = Memory.read n a) : m = n := by
  induction m generalizing n with
  | nil =>
    cases n with
    | nil => rfl
    | cons d rest =>
      obtain ⟨b, w⟩ := d
      obtain ⟨hw, _⟩ := (Memory.wf_cons b w rest).mp hn
      have := h b
      simp [Memory.read] at this
      exact absurd this.symm hw
  | cons d rest ih =>
    obtain ⟨a, v⟩ := d
    obtain ⟨hv, _, hgt, hrest⟩ := (Memory.wf_cons a v rest).mp hm
    cases n with
    | nil =>
      have := h a
      simp [Memory.read] at this
      exact absurd this hv
    | cons e rest' =>
      obtain ⟨b, w⟩ := e
      obtain ⟨hw, _, hgt', hrest'⟩ := (Memory.wf_cons b w rest').mp hn
      have hab : a = b := by
        rcases Nat.lt_trichotomy a b with hlt | heq | hlt
        · have ha := h a
          rw [Memory.read_of_all_gt ((b, w) :: rest') a (by
            intro x hx
            rcases List.mem_cons.mp hx with rfl | hx
            · exact hlt
            · exact Nat.lt_trans hlt (hgt' x hx))] at ha
          simp [Memory.read] at ha
          exact absurd ha hv
        · exact heq
        · have hb := h b
          rw [Memory.read_of_all_gt ((a, v) :: rest) b (by
            intro x hx
            rcases List.mem_cons.mp hx with rfl | hx
            · exact hlt
            · exact Nat.lt_trans hlt (hgt x hx))] at hb
          simp [Memory.read] at hb
          exact absurd hb.symm hw
      subst hab
      have hvw : v = w := by simpa [Memory.read] using h a
      subst hvw
      rw [ih rest' hrest hrest' (fun x => by
        by_cases hx : x = a
        · subst hx
          rw [Memory.read_of_all_gt _ _ hgt, Memory.read_of_all_gt _ _ hgt']
        · simpa [Memory.read, hx] using h x)]

/-- A bit of a byte after `setBit`. -/
theorem getLsbD_setBit (b : Byte) (i j : Nat) (v : Bool) (hi : i < 8) (hj : j < 8) :
    (setBit b i v).getLsbD j = if j = i then v else b.getLsbD j := by
  unfold setBit
  interval_cases i <;> interval_cases j <;> cases v <;>
    simp

/-- `setFrameBit` keeps the canonical form for every bit of the space. -/
theorem Memory.wf_setFrameBit (m : Memory) (k : Nat) (v : Bool) (hk : k < 8 * Memory.size)
    (h : Memory.wf m = true) : Memory.wf (Memory.setFrameBit m k v) = true := by
  refine Memory.wf_write _ _ _ ?_ h
  omega

/-- A bit of the frame after `setFrameBit`: the one set, every other as before. -/
theorem Memory.frameBit_setFrameBit (m : Memory) (k j : Nat) (v : Bool) (h : Memory.wf m = true) :
    Memory.frameBit (Memory.setFrameBit m k v) j = if j = k then v else Memory.frameBit m j := by
  unfold Memory.frameBit Memory.setFrameBit
  rw [Memory.read_write _ _ _ h]
  by_cases hb : j / 8 = k / 8
  · rw [if_pos hb, getLsbD_setBit _ _ _ _ (by omega) (by omega)]
    by_cases hjk : j = k
    · subst hjk; simp
    · rw [if_neg (by omega), if_neg hjk, hb]
  · rw [if_neg hb, if_neg (by rintro rfl; exact hb rfl)]

/-- A byte of the buffer after `setFrameBit`: only the byte of the bit can change. -/
theorem Memory.read_setFrameBit_other (m : Memory) (k a : Nat) (v : Bool) (h : Memory.wf m = true) (ha : a ≠ k / 8) :
    Memory.read (Memory.setFrameBit m k v) a = Memory.read m a :=
  Memory.read_write_other _ _ _ _ h ha

@[simp] theorem Memory.frameBit_nil (k : Nat) : Memory.frameBit [] k = false := by
  simp [Memory.frameBit, Memory.blank]

@[simp] theorem Memory.length_readBytes (m : Memory) (a n : Nat) : (Memory.readBytes m a n).length = n := by
  simp [Memory.readBytes]

theorem Memory.wf_reset : Memory.wf State.reset.rx.buf = true := rfl

end Sys2Proof.Machine
end

