-- ==== Sys2Proof/Laws/State.lean ====
section
/-!
SUPPORT. One lemma per field per update of `State`, each true by `rfl` (for `State.raise`: by the kind of the failure).
-/

namespace Sys2Proof.Machine

@[simp] theorem State.clearPorts_cfg (s : State) : (s.clearPorts).cfg = s.cfg := rfl
@[simp] theorem State.clearPorts_win (s : State) : (s.clearPorts).win = s.win := rfl
@[simp] theorem State.clearPorts_rx (s : State) : (s.clearPorts).rx = s.rx := rfl
@[simp] theorem State.clearPorts_rxResult (s : State) : (s.clearPorts).rxResult = none := rfl
@[simp] theorem State.clearPorts_txResult (s : State) : (s.clearPorts).txResult = none := rfl
@[simp] theorem State.clearPorts_statusOut (s : State) : (s.clearPorts).statusOut = none := rfl
@[simp] theorem State.clearPorts_input (s : State) : (s.clearPorts).input = s.input := rfl

@[simp] theorem State.setRx_cfg (r : RxState) (s : State) : (s.setRx r).cfg = s.cfg := rfl
@[simp] theorem State.setRx_win (r : RxState) (s : State) : (s.setRx r).win = s.win := rfl
@[simp] theorem State.setRx_rx (r : RxState) (s : State) : (s.setRx r).rx = r := rfl
@[simp] theorem State.setRx_rxResult (r : RxState) (s : State) : (s.setRx r).rxResult = none := rfl
@[simp] theorem State.setRx_txResult (r : RxState) (s : State) : (s.setRx r).txResult = none := rfl
@[simp] theorem State.setRx_statusOut (r : RxState) (s : State) : (s.setRx r).statusOut = none := rfl
@[simp] theorem State.setRx_input (r : RxState) (s : State) : (s.setRx r).input = s.input := rfl

@[simp] theorem State.emitRx_cfg (r : RxResult) (s : State) : (s.emitRx r).cfg = s.cfg := rfl
@[simp] theorem State.emitRx_win (r : RxResult) (s : State) : (s.emitRx r).win = s.win := rfl
@[simp] theorem State.emitRx_rx (r : RxResult) (s : State) : (s.emitRx r).rx = s.rx := rfl
@[simp] theorem State.emitRx_rxResult (r : RxResult) (s : State) : (s.emitRx r).rxResult = some r := rfl
@[simp] theorem State.emitRx_txResult (r : RxResult) (s : State) : (s.emitRx r).txResult = none := rfl
@[simp] theorem State.emitRx_statusOut (r : RxResult) (s : State) : (s.emitRx r).statusOut = none := rfl
@[simp] theorem State.emitRx_input (r : RxResult) (s : State) : (s.emitRx r).input = s.input := rfl

@[simp] theorem State.emitTx_cfg (r : TxResult) (s : State) : (s.emitTx r).cfg = s.cfg := rfl
@[simp] theorem State.emitTx_win (r : TxResult) (s : State) : (s.emitTx r).win = s.win := rfl
@[simp] theorem State.emitTx_rx (r : TxResult) (s : State) : (s.emitTx r).rx = s.rx := rfl
@[simp] theorem State.emitTx_rxResult (r : TxResult) (s : State) : (s.emitTx r).rxResult = none := rfl
@[simp] theorem State.emitTx_txResult (r : TxResult) (s : State) : (s.emitTx r).txResult = some r := rfl
@[simp] theorem State.emitTx_statusOut (r : TxResult) (s : State) : (s.emitTx r).statusOut = none := rfl
@[simp] theorem State.emitTx_input (r : TxResult) (s : State) : (s.emitTx r).input = s.input := rfl

@[simp] theorem State.emitStatus_cfg (s : State) : (s.emitStatus).cfg = s.cfg := rfl
@[simp] theorem State.emitStatus_win (s : State) : (s.emitStatus).win = s.win := rfl
@[simp] theorem State.emitStatus_rx (s : State) : (s.emitStatus).rx = s.rx := rfl
@[simp] theorem State.emitStatus_rxResult (s : State) : (s.emitStatus).rxResult = none := rfl
@[simp] theorem State.emitStatus_txResult (s : State) : (s.emitStatus).txResult = none := rfl
@[simp] theorem State.emitStatus_statusOut (s : State) : (s.emitStatus).statusOut = some s.rx.status := rfl
@[simp] theorem State.emitStatus_input (s : State) : (s.emitStatus).input = s.input := rfl

@[simp] theorem State.construct_cfg (c : Cfg) (s : State) : (s.construct c).cfg = c := rfl
@[simp] theorem State.construct_win (c : Cfg) (s : State) : (s.construct c).win = windowsOf c := rfl
@[simp] theorem State.construct_rx (c : Cfg) (s : State) : (s.construct c).rx = RxState.idle := rfl
@[simp] theorem State.construct_rxResult (c : Cfg) (s : State) : (s.construct c).rxResult = none := rfl
@[simp] theorem State.construct_txResult (c : Cfg) (s : State) : (s.construct c).txResult = none := rfl
@[simp] theorem State.construct_statusOut (c : Cfg) (s : State) : (s.construct c).statusOut = none := rfl
@[simp] theorem State.construct_input (c : Cfg) (s : State) : (s.construct c).input = s.input := rfl

@[simp] theorem State.popInput_cfg (l : List Input) (s : State) : (s.popInput l).cfg = s.cfg := rfl
@[simp] theorem State.popInput_win (l : List Input) (s : State) : (s.popInput l).win = s.win := rfl
@[simp] theorem State.popInput_rx (l : List Input) (s : State) : (s.popInput l).rx = s.rx := rfl
@[simp] theorem State.popInput_rxResult (l : List Input) (s : State) : (s.popInput l).rxResult = s.rxResult := rfl
@[simp] theorem State.popInput_txResult (l : List Input) (s : State) : (s.popInput l).txResult = s.txResult := rfl
@[simp] theorem State.popInput_statusOut (l : List Input) (s : State) : (s.popInput l).statusOut = s.statusOut := rfl
@[simp] theorem State.popInput_input (l : List Input) (s : State) : (s.popInput l).input = l := rfl

@[simp] theorem State.raise_cfg (x : Failure) (s : State) : (s.raise x).cfg = s.cfg := by cases x <;> rfl
@[simp] theorem State.raise_win (x : Failure) (s : State) : (s.raise x).win = s.win := by cases x <;> rfl
@[simp] theorem State.raise_input (x : Failure) (s : State) : (s.raise x).input = s.input := by cases x <;> rfl
@[simp] theorem State.raise_statusOut (x : Failure) (s : State) : (s.raise x).statusOut = none := by cases x <;> rfl

@[simp] theorem State.raise_rx (x : Failure) (s : State) : (s.raise x).rx = failureRx x s.rx := by cases x <;> rfl

@[simp] theorem State.raise_rxResult_timing (c : Cause) (b : Bool) (n : BitVec 7) (s : State) :
    (s.raise (.timingInvalid c b n)).rxResult = some (.fail (.timingInvalid c b n)) := rfl
@[simp] theorem State.raise_rxResult_mismatch (f : Bytes) (s : State) :
    (s.raise (.checksumMismatch f)).rxResult = some (.fail (.checksumMismatch f)) := rfl
@[simp] theorem State.raise_rxResult_unrecognized (f : Bytes) (s : State) :
    (s.raise (.unrecognizedFormat f)).rxResult = some (.fail (.unrecognizedFormat f)) := rfl
@[simp] theorem State.raise_rxResult_field (fl : Field) (f : Bytes) (s : State) :
    (s.raise (.invalidField fl f)).rxResult = some (.fail (.invalidField fl f)) := rfl
@[simp] theorem State.raise_construction (fl : Field) (s : State) :
    s.raise (.constructionError fl) = s.emitTx (.fail (.constructionError fl)) := rfl

@[simp] theorem RxState.idle_rxSt : RxState.idle.rxSt = .waiting := rfl
@[simp] theorem RxState.idle_nbits : RxState.idle.nbits = 0 := rfl
@[simp] theorem RxState.idle_expLen : RxState.idle.expLen = 0 := rfl
@[simp] theorem RxState.idle_buf : RxState.idle.buf = [] := rfl
@[simp] theorem RxState.start_rxSt : RxState.start.rxSt = .collecting := rfl
@[simp] theorem RxState.start_nbits : RxState.start.nbits = 0 := rfl
@[simp] theorem RxState.start_expLen : RxState.start.expLen = 0 := rfl
@[simp] theorem RxState.start_buf : RxState.start.buf = [] := rfl

end Sys2Proof.Machine
end

