-- ==== Sys2Proof/Laws/Ops.lean ====
section
/-!
SUPPORT. For each shared operation, once, everything it can do; later proofs cite these and do not unfold it.
-/

namespace Sys2Proof.Machine

/-! ### Tables -/

/-- The length table gives 9, 10 or 14, whatever the header. -/
theorem frameLen_cases (d : Byte) (m : Nibble) : frameLen d m = 9 ∨ frameLen d m = 10 ∨ frameLen d m = 14 := by
  unfold frameLen maxLen
  repeat (split; · simp)
  simp

theorem frameLen_pos (d : Byte) (m : Nibble) : 9 ≤ frameLen d m ∧ frameLen d m ≤ 14 := by
  rcases frameLen_cases d m with h | h | h <;> omega

/-- What `class_of` gives a class for: the class's own device code, length and message type. -/
theorem classOf_some (d : Byte) (n : Nat) (m : Nibble) (c : FrameClass) (h : classOf d n m = some c) :
    d = devCode c ∧ n = classLen c ∧ m = mtCode c := by
  unfold classOf at h
  split at h
  · cases h; simpa [devCode, classLen, mtCode] using ‹_ ∧ _ ∧ _›
  · split at h
    · cases h; simpa [devCode, classLen, mtCode] using ‹_ ∧ _ ∧ _›
    · split at h
      · cases h; simpa [devCode, classLen, mtCode] using ‹_ ∧ _ ∧ _›
      · split at h
        · cases h; simpa [devCode, classLen, mtCode] using ‹_ ∧ _ ∧ _›
        · split at h
          · cases h; simpa [devCode, classLen, mtCode] using ‹_ ∧ _ ∧ _›
          · cases h

@[simp] theorem classOf_own (c : FrameClass) : classOf (devCode c) (classLen c) (mtCode c) = some c := by
  cases c <;> rfl

/-! ### Bit fields -/

@[simp] theorem hiNibble_packNibbles (a b : Nibble) : hiNibble (packNibbles a b) = a :=
  BitVec.extractLsb'_append_eq_left

@[simp] theorem loNibble_packNibbles (a b : Nibble) : loNibble (packNibbles a b) = b :=
  BitVec.extractLsb'_append_eq_right

/-- A byte is its two nibbles. -/
theorem packNibbles_nibbles (b : Byte) : packNibbles (hiNibble b) (loNibble b) = b := by
  revert b; decide +revert

/-- A presented duration saturates and never wraps (R337). -/
@[simp] theorem toNat_presentedDuration (n : Nat) : (presentedDuration n).toNat = min n 65535 := by
  simp [presentedDuration]

@[simp] theorem pulseOfWord_pulseWord (p : Pulse) : pulseOfWord (pulseWord p) = p := by
  obtain ⟨l, d⟩ := p
  unfold pulseOfWord pulseWord
  dsimp only
  rw [BitVec.getLsbD_append, BitVec.extractLsb'_append_eq_right]
  cases l <;> simp [levelBit]

/-! ### Checksum test -/

/-- `validate` passes a frame on or reports a mismatch with the frame's bytes. -/
theorem validate_cases (chk : Bytes → Byte) (f : Bytes) :
    (chk (bodyOf f) = chkOf f ∧ validate chk f = .ok f)
      ∨ (chk (bodyOf f) ≠ chkOf f ∧ validate chk f = .fail (.checksumMismatch f)) := by
  unfold validate
  split
  · exact .inl ⟨‹_›, rfl⟩
  · exact .inr ⟨‹_›, rfl⟩

/-- `checked` gives the result it is given, or a mismatch. -/
theorem checked_cases (chk : Bytes → Byte) (f : Bytes) (r : RxResult) :
    (chk (bodyOf f) = chkOf f ∧ checked chk f r = r)
      ∨ (chk (bodyOf f) ≠ chkOf f ∧ checked chk f r = .fail (.checksumMismatch f)) := by
  unfold checked
  split
  · exact .inl ⟨‹_›, rfl⟩
  · exact .inr ⟨‹_›, rfl⟩

/-- The length test of `parse` (R205). -/
theorem lengthOut_iff (f : Bytes) : lengthOut f = true ↔ f.length < 2 ∨ 14 < f.length := by
  show (decide (f.length < 2) || decide (14 < f.length)) = true ↔ _
  simp

/-! ### Messages out of a frame -/

/-- What a failure of `dispatch` can be, and what is known of a message it gives. -/
theorem dispatch_cases (f : Bytes) :
    dispatch f = .fail (.unrecognizedFormat f) ∨ (∃ fl, dispatch f = .fail (.invalidField fl f))
      ∨ (∃ m, dispatch f = .ok m ∧ messageOk m = true) := by
  unfold dispatch
  split
  · unfold unpackEntry
    split
    · split
      · exact .inr (.inr ⟨_, rfl, ‹_›⟩)
      · exact .inr (.inl ⟨_, rfl⟩)
    · exact .inr (.inl ⟨_, rfl⟩)
  · unfold unpackMotion
    split
    · split
      · exact .inr (.inr ⟨_, rfl, ‹_›⟩)
      · exact .inr (.inl ⟨_, rfl⟩)
    · exact .inr (.inl ⟨_, rfl⟩)
  · unfold unpackKeychain
    split
    · split
      · exact .inr (.inr ⟨_, rfl, ‹_›⟩)
      · exact .inr (.inl ⟨_, rfl⟩)
    · exact .inr (.inl ⟨_, rfl⟩)
  · unfold unpackPinreq
    split
    · split
      · exact .inr (.inr ⟨_, rfl, by simp [messageOk, *]⟩)
      · exact .inr (.inl ⟨_, rfl⟩)
    · exact .inr (.inl ⟨_, rfl⟩)
  · unfold unpackPinresp
    split
    · split
      · split
        · exact .inr (.inr ⟨_, rfl, by simp [messageOk, *]⟩)
        · exact .inr (.inl ⟨_, rfl⟩)
      · exact .inr (.inl ⟨_, rfl⟩)
    · exact .inr (.inl ⟨_, rfl⟩)
  · exact .inl rfl

/-! ### The receive step -/

/-- What a data bit can do: skipped while scanning, the frame completed, or one more bit collected. -/
theorem shiftIn_cases (chk : Bytes → Byte) (r : RxState) (b : Bool) :
    (r.rxSt = .waiting ∧ shiftIn chk r b = (r, none))
      ∨ (r.rxSt = .collecting ∧ completes r b = true
          ∧ shiftIn chk r b = (RxState.idle, some (validate chk (frameAfter r b))))
      ∨ (r.rxSt = .collecting ∧ completes r b = false
          ∧ shiftIn chk r b = ({ rxSt := .collecting, nbits := BitVec.ofNat 7 (r.nbits.toNat + 1),
                                 expLen := BitVec.ofNat 4 (lenAfter r b), buf := bufAfter r b }, none)) := by
  unfold shiftIn
  split
  · exact .inl ⟨‹_›, rfl⟩
  · rename_i hc
    by_cases h : completes r b = true
    · exact .inr (.inl ⟨hc, h, by rw [if_pos h]⟩)
    · exact .inr (.inr ⟨hc, by simpa using h, by rw [if_neg h]⟩)

/-- A result of the symbol step: a timing failure or a validated frame, with the state it leaves (R160, R283). -/
theorem asmStep_result (chk : Bytes → Byte) (r r' : RxState) (sym : Symbol) (a : AsmResult)
    (h : asmStep chk r sym = (r', some a)) :
    (∃ c b n, a = .fail (.timingInvalid c b n) ∧ r' = failureRx (.timingInvalid c b n) r)
      ∨ (∃ f, a = .fail (.checksumMismatch f) ∧ r' = RxState.idle) ∨ (∃ f, a = .ok f ∧ r' = RxState.idle) := by
  have shift : ∀ b, shiftIn chk r b = (r', some a) →
      (∃ f, a = .fail (.checksumMismatch f) ∧ r' = RxState.idle) ∨ (∃ f, a = .ok f ∧ r' = RxState.idle) := by
    intro b hb
    rcases shiftIn_cases chk r b with ⟨_, hs⟩ | ⟨_, _, hs⟩ | ⟨_, _, hs⟩
    · rw [hs] at hb; cases hb
    · rw [hs] at hb
      obtain ⟨h1, h2⟩ := Prod.mk.inj hb
      injection h2 with h2
      rcases validate_cases chk (frameAfter r b) with ⟨_, hv⟩ | ⟨_, hv⟩
      · exact .inr ⟨_, (h2.symm.trans hv), h1.symm⟩
      · exact .inl ⟨_, (h2.symm.trans hv), h1.symm⟩
    · rw [hs] at hb; cases hb
  cases sym with
  | zero => exact .inr (shift false h)
  | one => exact .inr (shift true h)
  | invalid =>
    obtain ⟨h1, h2⟩ := Prod.mk.inj h
    injection h2 with h2
    exact .inl ⟨_, _, _, h2.symm, h1.symm⟩
  | preamble =>
    simp only [asmStep] at h
    split at h
    · cases h
    · obtain ⟨h1, h2⟩ := Prod.mk.inj h
      injection h2 with h2
      exact .inl ⟨_, _, _, h2.symm, h1.symm⟩

/-- The one failure that `dispatch` can raise leaves `idle` (R283). -/
theorem failureRx_dispatch (f : Bytes) (x : Failure) (r : RxState) (h : dispatch f = .fail x) :
    failureRx x r = RxState.idle := by
  rcases dispatch_cases f with hd | ⟨_, hd⟩ | ⟨_, hd, _⟩ <;> rw [hd] at h <;> cases h <;> rfl

/-- Everything the receive step can do when it goes on: the state and the result that R261 gives on the receive state,
nothing on the other ports, everything else as before. -/
theorem receive_next (sym : Symbol) (s : State) (h : bitOutOfBuf s.rx sym = false) :
    receive sym s = .next { s with
      rx := (rxSymbolStep (checksumOf s.cfg.checksum) s.rx sym).1
      rxResult := (rxSymbolStep (checksumOf s.cfg.checksum) s.rx sym).2
      txResult := none
      statusOut := none } := by
  unfold receive rxSymbolStep
  rw [if_neg (by simp [h])]
  rcases hstep : asmStep (checksumOf s.cfg.checksum) s.rx sym with ⟨r', _ | a⟩
  · rfl
  · rcases asmStep_result _ _ _ _ _ hstep with ⟨c, b, n, rfl, rfl⟩ | ⟨f, rfl, rfl⟩ | ⟨f, rfl, rfl⟩
    · rfl
    · rfl
    · rcases dispatch_cases f with hd | ⟨fl, hd⟩ | ⟨m, hd, _⟩ <;> simp only [hd, Option.map_some, resultOfAsm] <;> rfl

/-- The receive step stops only where a bit has no place in `BUF`. -/
theorem receive_fault (sym : Symbol) (s : State) (h : bitOutOfBuf s.rx sym = true) :
    receive sym s = .fault .bufOutOfRange := by
  unfold receive; rw [if_pos h]

/-- Preamble and Invalid symbols need no place in `BUF`. -/
@[simp] theorem bitOutOfBuf_preamble (r : RxState) : bitOutOfBuf r .preamble = false := rfl
@[simp] theorem bitOutOfBuf_invalid (r : RxState) : bitOutOfBuf r .invalid = false := rfl

/-- In a state of R36 every data bit has its place. -/
theorem bitOutOfBuf_of_inv (r : RxState) (sym : Symbol) (h : r.Inv) : bitOutOfBuf r sym = false := by
  obtain ⟨_, _, hlow, hhigh, _⟩ := h
  have key : r.rxSt = .collecting → r.nbits.toNat / 8 < Memory.size := by
    intro hc
    by_cases h16 : r.nbits.toNat < 16
    · simp [Memory.size, maxLen]; omega
    · obtain ⟨he, hn⟩ := hhigh hc (by omega)
      have := (frameLen_pos (Memory.read r.buf 0) (hiNibble (Memory.read r.buf 1))).2
      simp [Memory.size, maxLen]; omega
  cases sym <;> simp only [bitOutOfBuf]
  all_goals
    by_cases hc : r.rxSt = .collecting
    · have := key hc; simp [hc]; omega
    · simp [hc]

/-! ### The transmit step -/

/-- From an odd index on, data symbols keep the precondition of `encode`. -/
theorem preamblesEvenFrom_bits (f : Bytes) (i : Nat) : preamblesEvenFrom i (bits f) = true := by
  have gen : ∀ (l : List TxSymbol) (i : Nat), (∀ x ∈ l, x ≠ .preamble) → preamblesEvenFrom i l = true := by
    intro l
    induction l with
    | nil => intros; rfl
    | cons x rest ih =>
      intro i h
      have hx : x ≠ .preamble := h x (by simp)
      have hb : (x == TxSymbol.preamble) = false := by cases x <;> first | rfl | exact absurd rfl hx
      simp [preamblesEvenFrom, hb, ih (i + 1) (fun y hy => h y (by simp [hy]))]
  apply gen
  intro x hx
  simp only [bits, List.mem_flatMap, byteSymbols, List.mem_map] at hx
  obtain ⟨b, _, j, _, rfl⟩ := hx
  split <;> simp

/-- `TX_MSG` never asks `encode` for anything outside its domain (R136, R288). -/
theorem encodePulses_disassemble (c : Cfg) (b : Bytes) (chk : Bytes → Byte) :
    encodePulses c (disassemble b chk) = some (encodeFrom c 0 (disassemble b chk)) := by
  have h : preamblesEvenFrom 0 (disassemble b chk) = true := by
    simp [disassemble, preamblesEvenFrom, preamblesEvenFrom_bits]
  simp [encodePulses, h]

/-- A constructor fails with a `ConstructionError` and nothing else. -/
theorem construct_error (r : TxReq) (x : Failure) (h : construct r = .error x) :
    ∃ fl, x = .constructionError fl := by
  have serialSeq : ∀ t n k, (∀ s q y, k s q = .error y → ∃ fl, y = .constructionError fl) →
      withSerialSeq t n k = .error x → ∃ fl, x = .constructionError fl := by
    intro t n k hk h
    unfold withSerialSeq at h
    split at h
    · cases h; exact ⟨_, rfl⟩
    · split at h
      · cases h; exact ⟨_, rfl⟩
      · exact hk _ _ _ h
  cases r with
  | entrySensor t n e => exact serialSeq _ _ _ (fun _ _ _ hh => by cases hh) h
  | motionSensor t n e => exact serialSeq _ _ _ (fun _ _ _ hh => by cases hh) h
  | keychainRemote t n e => exact serialSeq _ _ _ (fun _ _ _ hh => by cases hh) h
  | pinRequest t n p =>
    refine serialSeq _ _ _ (fun _ _ _ hh => ?_) h
    split at hh
    · cases hh; exact ⟨_, rfl⟩
    · cases hh
  | pinResponse t n b y =>
    refine serialSeq _ _ _ (fun _ _ _ hh => ?_) h
    split at hh
    · cases hh; exact ⟨_, rfl⟩
    · cases hh

/-- Everything `TX_MSG` can do. -/
theorem execTxMsg_cases (r : TxReq) (s : State) :
    (∃ fl, construct r = .error (.constructionError fl)
        ∧ execTxMsg r s = .next (s.emitTx (.fail (.constructionError fl))))
      ∨ (∃ m, construct r = .ok m ∧ execTxMsg r s = .next (s.emitTx (.pulses
          (encodeFrom s.cfg 0 (disassemble (body m) (checksumOf s.cfg.checksum)))))) := by
  unfold execTxMsg
  rcases hc : construct r with x | m
  · obtain ⟨fl, rfl⟩ := construct_error r x hc
    exact .inl ⟨fl, rfl, rfl⟩
  · exact .inr ⟨m, rfl, by simp only [encodePulses_disassemble]⟩

/-! ### The step -/

/-- Everything a step can do: nothing presented, or the decoded instruction run. -/
theorem step_cases (s : State) :
    (s.input = [] ∧ step s = .next s)
      ∨ (∃ x rest, s.input = x :: rest ∧ step s = exec (decode s.win x) (s.popInput rest)) := by
  unfold step
  rcases hin : s.input with _ | ⟨x, rest⟩
  · exact .inl ⟨rfl, rfl⟩
  · exact .inr ⟨x, rest, rfl, rfl⟩

end Sys2Proof.Machine
end

