-- ==== Sys2Proof/Laws/PerInstr.lean ====
section
/-!
SUPPORT. The family `TableFormat` over the constructors of `Instr`: what the encoder presents for an instruction has the
format and the number of bits or bytes that the row of `spec/opcode_table.json` gives.
-/

namespace Sys2Proof.Laws

/-- The formats of the table's rows: `PULSE`, `F9`, `F10`, `F14`, `PORT`. A frame of the `UNKNOWN` row may have any
length (log 5). -/
inductive RowFormat where
  | pulse
  | frame (length : Nat)
  | anyFrame
  | port
deriving DecidableEq, Repr

/-- The format of an instruction's row. -/
def rowFormat (i : Instr) : RowFormat :=
  match i with
  | .zero _ => .pulse
  | .one _ => .pulse
  | .preamble _ => .pulse
  | .invalid _ => .pulse
  | .entry _ _ _ _ => .frame 9
  | .motion _ _ _ _ => .frame 9
  | .keychain _ _ _ _ => .frame 9
  | .pinreq _ _ _ _ => .frame 10
  | .pinresp _ _ _ _ _ => .frame 14
  | .unknown _ => .anyFrame
  | .reset _ => .port
  | .rxPulse _ => .port
  | .rxClear => .port
  | .txMsg _ => .port
  | .status => .port

/-- What is presented has a format. -/
def hasFormat (x : Input) (f : RowFormat) : Prop :=
  match x, f with
  | .pulse _, .pulse => True
  | .frame b, .frame n => b.length = n
  | .frame _, .anyFrame => True
  | .port _, .port => True
  | _, _ => False

/-- The encoder presents an instruction in its row's format. -/
def TableFormat.Statement (i : Instr) : Prop := hasFormat (encode i) (rowFormat i)

theorem TableFormat.zero (p : Pulse) : TableFormat.Statement (.zero p) := trivial
theorem TableFormat.one (p : Pulse) : TableFormat.Statement (.one p) := trivial
theorem TableFormat.preamble (dur : BitVec 16) : TableFormat.Statement (.preamble dur) := trivial
theorem TableFormat.invalid (p : Pulse) : TableFormat.Statement (.invalid p) := trivial
theorem TableFormat.entry (seq : Nibble) (serial : Serial) (event chk : Byte) :
    TableFormat.Statement (.entry seq serial event chk) := rfl
theorem TableFormat.motion (seq : Nibble) (serial : Serial) (event chk : Byte) :
    TableFormat.Statement (.motion seq serial event chk) := rfl
theorem TableFormat.keychain (seq : Nibble) (serial : Serial) (event chk : Byte) :
    TableFormat.Statement (.keychain seq serial event chk) := rfl
theorem TableFormat.pinreq (seq : Nibble) (serial : Serial) (digits : Pin) (chk : Byte) :
    TableFormat.Statement (.pinreq seq serial digits chk) := rfl
theorem TableFormat.pinresp (seq : Nibble) (serial base : Serial) (response chk : Byte) :
    TableFormat.Statement (.pinresp seq serial base response chk) := rfl
theorem TableFormat.unknown (frame : Bytes) : TableFormat.Statement (.unknown frame) := trivial
theorem TableFormat.reset (cfg : Cfg) : TableFormat.Statement (.reset cfg) := trivial
theorem TableFormat.rxPulse (p : Pulse) : TableFormat.Statement (.rxPulse p) := trivial
theorem TableFormat.rxClear : TableFormat.Statement .rxClear := trivial
theorem TableFormat.txMsg (req : TxReq) : TableFormat.Statement (.txMsg req) := trivial
theorem TableFormat.status : TableFormat.Statement .status := trivial

end Sys2Proof.Laws
end

