-- ==== Sys2Proof/Laws/Platform.lean ====
section
/-!
SUPPORT. What a step of a channel and of a platform can do.
-/

namespace Sys2Proof.Machine

theorem Channel.step_next (s t : State) (h : Sys2Proof.Machine.step s = .next t) :
    (Channel.live s).step = .live t := by simp [Channel.step, Channel.after, h]

theorem Channel.step_fault (s : State) (r : Fault) (h : Sys2Proof.Machine.step s = .fault r) :
    (Channel.live s).step = .absent (.faulted r) s.input.tail := by simp [Channel.step, Channel.after, h]

theorem Channel.step_refused (s : State) (r : Refusal) (h : Sys2Proof.Machine.step s = .refused r) :
    (Channel.live s).step = .absent (.refused r) s.input.tail := by simp [Channel.step, Channel.after, h]

/-- `RESET` writes everything but the model's own list of requests, so what it leaves does not depend on the state it is
run on (R260). -/
theorem execReset_after (c : Cfg) (s t : State) (h : s.input = t.input) : execReset c s = execReset c t := by
  simp only [execReset, State.construct, h]

@[simp] theorem Channel.step_absent_nil (why : Absence) : (Channel.absent why []).step = .absent why [] := rfl

@[simp] theorem Channel.step_absent_cons (why : Absence) (x : Input) (rest : List Input) :
    (Channel.absent why (x :: rest)).step = .request why x rest := rfl

/-- Everything a request can do to a channel without an instance: a `RESET` with `cfg_ok` constructs, and anything else
leaves it without one. -/
theorem Channel.request_cases (why : Absence) (x : Input) (rest : List Input) :
    (∃ c, x = .port (.reset c) ∧ cfgOk c = true
        ∧ Channel.request why x rest = .live ((State.reset.popInput rest).construct c))
      ∨ (∃ c, x = .port (.reset c) ∧ cfgOk c = false
        ∧ Channel.request why x rest = .absent (.refused .cfgNotOk) rest)
      ∨ ((∀ c, x ≠ .port (.reset c)) ∧ Channel.request why x rest = .absent why rest) := by
  unfold Channel.request
  split
  next c => cases hc : cfgOk c <;> simp [execReset, hc, Channel.after]
  next h => exact .inr (.inr ⟨fun c hx => h c hx, rfl⟩)

/-- A platform step is its channel's own step, at its index and nowhere else. -/
theorem Platform.getElem?_stepAt (p : Platform) (i j : Nat) :
    (p.stepAt i)[j]? = if i = j then p[j]?.map Channel.step else p[j]? := by
  simp only [Platform.stepAt, List.getElem?_modify]
  split <;> simp

@[simp] theorem Platform.run_nil (p : Platform) : p.run [] = p := rfl
@[simp] theorem Platform.run_cons (p : Platform) (i : Nat) (l : List Nat) : p.run (i :: l) = (p.stepAt i).run l := rfl

end Sys2Proof.Machine
end

