-- ==== Sys2Proof/Tests/Slice0.lean ====
section
/-!
SUPPORT. Tests: a decoded word per row written out from its pattern, an ill-formed term per check, small steps with the
results of `spec/95_test_vectors.md`, and a witness for the hypotheses of every obligation that has any.
-/

namespace Sys2Proof.Tests

open Sys2Proof.Machine

/-! ### Helpers -/

/-- The windows after reset. -/
def w0 : Windows := windowsOf cfgDefault

/-- A collecting receive state with its leading bytes. -/
def rxAt (n e : Nat) (lead : Bytes) : RxState :=
  { rxSt := .collecting, nbits := BitVec.ofNat 7 n, expLen := BitVec.ofNat 4 e
    buf := (lead.zipIdx).foldl (fun m c => Memory.write m c.2 c.1) [] }

/-- The reset state with another receive state. -/
def at_ (r : RxState) : State := { State.reset with rx := r }

/-- The receive state and the result on `rx_result` after an outcome. -/
def rxView (o : Host.Outcome State Fault Refusal) : Option (RxState × Option RxResult) :=
  (nextOf o).map (fun s => (s.rx, s.rxResult))

/-- The result on `tx_result` after an outcome. -/
def txView (o : Host.Outcome State Fault Refusal) : Option TxResult := (nextOf o).bind (fun s => s.txResult)

/-- Frame FA of 95_test_vectors and its body. -/
def fa : Bytes := [0x05, 0x10, 0x31, 0x32, 0x33, 0x41, 0x5A, 0x01, 0x47]
def faBody : Bytes := [0x05, 0x10, 0x31, 0x32, 0x33, 0x41, 0x5A, 0x01]

/-- "123AZ", "159MP", "0A1B2" as serials. -/
def ser123 : Serial := ⟨0x31, 0x32, 0x33, 0x41, 0x5A⟩
def ser159 : Serial := ⟨0x31, 0x35, 0x39, 0x4D, 0x50⟩
def ser0A1 : Serial := ⟨0x30, 0x41, 0x31, 0x42, 0x32⟩

/-- The request of V40. -/
def reqA : TxReq := .entrySensor [0x31, 0x32, 0x33, 0x41, 0x5A] 0 .opened

/-- The configuration of V11. -/
def cfg11 : Cfg := { tZero := 400, tOne := 800, tPre := 1600, tolBitPct := 10, tolPrePct := 20, checksum := .crc8 }

/-! ### Every row's word decodes to its constructor (patterns of R90, R95 to R99) -/

theorem test_decode_zero : decode w0 (.pulse 0b0_0000000111110100#17) = (.zero ⟨.low, 500⟩) := by decide
theorem test_decode_one : decode w0 (.pulse 0b1_0000001111101000#17) = (.one ⟨.high, 1000⟩) := by decide
theorem test_decode_preamble : decode w0 (.pulse 0b1_0000011111010000#17) = (.preamble 2000) := by decide
theorem test_decode_invalid : decode w0 (.pulse 0b0_0000011111010000#17) = (.invalid ⟨.low, 2000⟩) := by decide
theorem test_decode_entry :
    decode w0 (.frame [0b00000101, 0b00010000, 0x31, 0x32, 0x33, 0x41, 0x5A, 0b00000001, 0x47])
      = (.entry 0 ser123 0x01 0x47) := by decide
theorem test_decode_motion :
    decode w0 (.frame [0b00000100, 0b00011111, 0x34, 0x58, 0x59, 0x37, 0x37, 0b00000001, 0x77])
      = (.motion 15 ⟨0x34, 0x58, 0x59, 0x37, 0x37⟩ 0x01 0x77) := by decide
theorem test_decode_keychain :
    decode w0 (.frame [0b00000010, 0b00011001, 0x32, 0x4B, 0x43, 0x30, 0x31, 0b00000011, 0x3F])
      = (.keychain 9 ⟨0x32, 0x4B, 0x43, 0x30, 0x31⟩ 0x03 0x3F) := by decide
theorem test_decode_pinreq :
    decode w0 (.frame [0b00000001, 0b00100011, 0x31, 0x35, 0x39, 0x4D, 0x50, 0b00010011, 0b01111001, 0xEC])
      = (.pinreq 3 ser159 ⟨1, 3, 7, 9⟩ 0xEC) := by decide
theorem test_decode_pinresp :
    decode w0 (.frame [0b00000001, 0b00110011, 0x31, 0x35, 0x39, 0x4D, 0x50, 0x30, 0x41, 0x31, 0x42, 0x32, 0x01, 0x87])
      = (.pinresp 3 ser159 ser0A1 0x01 0x87) := by decide
theorem test_decode_unknown :
    decode w0 (.frame (0b00000111 :: 0b00010000 :: List.replicate 12 0))
      = (.unknown (0x07 :: 0x10 :: List.replicate 12 0)) := by decide
theorem test_decode_reset : decode w0 (.port (.reset cfg11)) = (.reset cfg11) := by decide
theorem test_decode_rxPulse :
    decode w0 (.port (.rxPulse 0b1_0000011111010000#17)) = (.rxPulse ⟨.high, 2000⟩) := by decide
theorem test_decode_rxClear : decode w0 (.port .rxClear) = .rxClear := by decide
theorem test_decode_txMsg : decode w0 (.port (.txMsg reqA)) = (.txMsg reqA) := by decide
theorem test_decode_status : decode w0 (.port .status) = .status := by decide

/-- A known device class and length with another class's message type, or a wrong length, is `UNKNOWN` (V60). -/
theorem test_decode_not_pinreq :
    decode w0 (.frame [0x01, 0x30, 0x31, 0x35, 0x39, 0x4D, 0x50, 0x13, 0x79, 0xF9])
      = (.unknown [0x01, 0x30, 0x31, 0x35, 0x39, 0x4D, 0x50, 0x13, 0x79, 0xF9]) := by decide

theorem test_table_word_entry : decodeTableWord 16 0x0513 = some (.entry 3 ⟨0, 0, 0, 0, 0⟩ 0 0) := by decide
theorem test_table_word_pinresp :
    decodeTableWord 16 0x0130 = some (.pinresp 0 ⟨0, 0, 0, 0, 0⟩ ⟨0, 0, 0, 0, 0⟩ 0 0) := by decide
theorem test_table_word_pulse : decodeTableWord 24 0x107D0 = some (.preamble 2000) := by decide

/-- The table word of `ENTRY` with zero operand bytes runs as the first instruction after reset: `sum8` of its body is
`0x15`, its checksum byte 0. -/
theorem test_step_table_word :
    rxView (step (State.reset.withFetchWord 16 0x0510))
      = some (RxState.idle, some (.fail (.checksumMismatch [0x05, 0x10, 0, 0, 0, 0, 0, 0, 0]))) := by decide

/-! ### An ill-formed term for each check -/

theorem test_wf_zero : Instr.wf w0 (.zero ⟨.low, 374⟩) = false := by decide
theorem test_wf_one : Instr.wf w0 (.one ⟨.low, 1250⟩) = false := by decide
theorem test_wf_preamble : Instr.wf w0 (.preamble 1499) = false := by decide
theorem test_wf_invalid : Instr.wf w0 (.invalid ⟨.high, 1500⟩) = false := by decide
theorem test_wf_unknown : Instr.wf w0 (.unknown fa) = false := by decide

/-! ### A request over the port's width runs and is rejected by its constructor (R219, R221, R265) -/

theorem test_step_wide_text :
    txView (step { State.reset with input := [.port (.txMsg (.pinRequest [] 0 (List.replicate 256 0x30)))] })
      = some (.fail (.constructionError .serial)) := by decide +kernel
theorem test_step_wide_sequence :
    txView (step { State.reset with input := [.port (.txMsg (.entrySensor [0x31, 0x32, 0x33, 0x41, 0x5A] 256 .opened))] })
      = some (.fail (.constructionError .sequence)) := by decide

/-! ### Configuration (V10 to V15) -/

theorem test_windows_default : w0 = ⟨375, 625, 750, 1250, 1500, 2500⟩ := by decide
theorem test_windows_v11 : windowsOf cfg11 = ⟨360, 440, 720, 880, 1280, 1920⟩ ∧ cfgOk cfg11 = true := by decide
theorem test_cfg_overlap : cfgOk { cfgDefault with tolBitPct := 50 } = false := by decide
theorem test_cfg_empty_window :
    cfgOk { cfgDefault with tZero := 3 } = false ∧ cfgOk { cfgDefault with tZero := 4 } = true := by decide
theorem test_cfg_range :
    cfgOk { cfgDefault with tPre := 60000 } = false ∧ cfgOk { cfgDefault with tolBitPct := 0 } = false
      ∧ cfgOk { cfgDefault with tolBitPct := 100 } = false := by decide

/-! ### Checksums and packing (V24, V69) -/

theorem test_checksums : sum8 faBody = 0x47 ∧ xor8 faBody = 0x3F ∧ crc8 faBody = 0x65 := by decide +kernel
theorem test_crc8_check_value :
    crc8 [0x31, 0x32, 0x33, 0x34, 0x35, 0x36, 0x37, 0x38, 0x39] = 0xF4 := by decide +kernel
theorem test_body_pinreq :
    body (.pinRequest ser159 3 ⟨1, 3, 7, 9⟩) = [0x01, 0x23, 0x31, 0x35, 0x39, 0x4D, 0x50, 0x13, 0x79] := by decide

/-! ### One step of each row (V30 to V37, V50 to V54, V60 to V62) -/

theorem test_exec_zero_header :
    rxView (exec (.zero ⟨.high, 500⟩) (at_ (rxAt 15 0 [0x05, 0x10]))) = some (rxAt 16 9 [0x05, 0x10], none) := by decide
theorem test_exec_zero_mismatch :
    rxView (exec (.zero ⟨.high, 500⟩) (at_ (rxAt 71 9 [0x05, 0x10, 0x31, 0x32, 0x33, 0x41, 0x5A, 0x01, 0x46])))
      = some (RxState.idle,
          some (.fail (.checksumMismatch [0x05, 0x10, 0x31, 0x32, 0x33, 0x41, 0x5A, 0x01, 0x46]))) := by decide
theorem test_exec_one_first_bit :
    rxView (exec (.one ⟨.low, 1000⟩) (at_ (rxAt 2 0 [0x80]))) = some (rxAt 3 0 [0xA0], none) := by decide
theorem test_exec_one_completes :
    rxView (exec (.one ⟨.high, 1000⟩) (at_ (rxAt 71 9 [0x05, 0x10, 0x31, 0x32, 0x33, 0x41, 0x5A, 0x01, 0x46])))
      = some (RxState.idle, some (.ok (.entrySensor ser123 0 .opened))) := by decide
theorem test_exec_preamble_restart :
    rxView (exec (.preamble 2000) (at_ (rxAt 40 9 [0x05, 0x10, 0x31, 0x32, 0x33])))
      = some (RxState.start, some (.fail (.timingInvalid .unexpectedPreamble true 40))) := by decide
theorem test_exec_preamble_start :
    rxView (exec (.preamble 2000) State.reset) = some (RxState.start, none) := by decide
theorem test_exec_invalid :
    rxView (exec (.invalid ⟨.low, 3000⟩) (at_ (rxAt 23 9 [0x05, 0x10, 0x30])))
      = some (RxState.idle, some (.fail (.timingInvalid .invalidPulse true 23))) := by decide
theorem test_exec_invalid_scanning :
    rxView (exec (.invalid ⟨.low, 3000⟩) State.reset)
      = some (RxState.idle, some (.fail (.timingInvalid .invalidPulse false 0))) := by decide
theorem test_exec_entry :
    rxView (exec (.entry 1 ser123 0x02 0x49) (at_ (rxAt 40 9 [0x05, 0x10, 0x31])))
      = some (rxAt 40 9 [0x05, 0x10, 0x31], some (.ok (.entrySensor ser123 1 .closed))) := by decide
theorem test_exec_entry_serial_first :
    rxView (exec (.entry 0 ⟨0x31, 0x32, 0xFF, 0x41, 0x5A⟩ 0x07 0x19) State.reset)
      = some (RxState.idle,
          some (.fail (.invalidField .serial [0x05, 0x10, 0x31, 0x32, 0xFF, 0x41, 0x5A, 0x07, 0x19]))) := by decide
theorem test_exec_motion_zero_code :
    rxView (exec (.motion 0 ⟨0x34, 0x58, 0x59, 0x37, 0x37⟩ 0x00 0x67) State.reset)
      = some (RxState.idle, some (.ok (.motionSensor ⟨0x34, 0x58, 0x59, 0x37, 0x37⟩ 0 .heartbeat))) := by decide
theorem test_exec_motion_bad_code :
    rxView (exec (.motion 0 ⟨0x34, 0x58, 0x59, 0x37, 0x37⟩ 0x02 0x69) State.reset)
      = some (RxState.idle,
          some (.fail (.invalidField .event [0x04, 0x10, 0x34, 0x58, 0x59, 0x37, 0x37, 0x02, 0x69]))) := by decide
theorem test_exec_keychain_off :
    rxView (exec (.keychain 9 ⟨0x32, 0x4B, 0x43, 0x30, 0x31⟩ 0x03 0x3F) State.reset)
      = some (RxState.idle, some (.ok (.keychainRemote ⟨0x32, 0x4B, 0x43, 0x30, 0x31⟩ 9 .off))) := by decide
theorem test_exec_keychain_bad_code :
    rxView (exec (.keychain 9 ⟨0x32, 0x4B, 0x43, 0x30, 0x31⟩ 0x04 0x40) State.reset)
      = some (RxState.idle,
          some (.fail (.invalidField .event [0x02, 0x19, 0x32, 0x4B, 0x43, 0x30, 0x31, 0x04, 0x40]))) := by decide
theorem test_exec_pinreq :
    rxView (exec (.pinreq 3 ser159 ⟨9, 9, 9, 9⟩ 0x92) State.reset)
      = some (RxState.idle, some (.ok (.pinRequest ser159 3 ⟨9, 9, 9, 9⟩))) := by decide
theorem test_exec_pinreq_bad_digit :
    rxView (exec (.pinreq 3 ser159 ⟨1, 3, 7, 10⟩ 0xED) State.reset)
      = some (RxState.idle,
          some (.fail (.invalidField .pin [0x01, 0x23, 0x31, 0x35, 0x39, 0x4D, 0x50, 0x13, 0x7A, 0xED]))) := by decide
theorem test_exec_pinresp :
    rxView (exec (.pinresp 4 ser159 ser0A1 0x02 0x89) State.reset)
      = some (RxState.idle, some (.ok (.pinResponse ser159 4 ser0A1 .invalid))) := by decide
theorem test_exec_pinresp_base_serial :
    rxView (exec (.pinresp 3 ser159 ⟨0x30, 0x41, 0x31, 0x42, 0x80⟩ 0x01 0xD5) State.reset)
      = some (RxState.idle, some (.fail (.invalidField .baseSerial
          [0x01, 0x33, 0x31, 0x35, 0x39, 0x4D, 0x50, 0x30, 0x41, 0x31, 0x42, 0x80, 0x01, 0xD5]))) := by decide
theorem test_exec_unknown :
    rxView (exec (.unknown [0x07, 0x10, 0x31, 0x32, 0x33, 0x41, 0x5A, 0x01, 0x49]) State.reset)
      = some (RxState.idle,
          some (.fail (.unrecognizedFormat [0x07, 0x10, 0x31, 0x32, 0x33, 0x41, 0x5A, 0x01, 0x49]))) := by decide
theorem test_exec_unknown_checksum_first :
    rxView (exec (.unknown [0x07, 0x10, 0x31, 0x32, 0x33, 0x41, 0x5A, 0x01, 0x00]) State.reset)
      = some (RxState.idle,
          some (.fail (.checksumMismatch [0x07, 0x10, 0x31, 0x32, 0x33, 0x41, 0x5A, 0x01, 0x00]))) := by decide
theorem test_exec_reset :
    (nextOf (exec (.reset cfg11) (at_ (rxAt 40 9 [0x05, 0x10])))).map (fun s => (s.cfg, s.win, s.rx))
      = some (cfg11, ⟨360, 440, 720, 880, 1280, 1920⟩, RxState.idle) := by decide
theorem test_exec_reset_refused :
    exec (.reset { cfgDefault with tolBitPct := 50 }) State.reset = .refused .cfgNotOk := rfl
theorem test_exec_rxPulse_gap_as_bit :
    rxView (exec (.rxPulse ⟨.low, 800⟩) (at_ (rxAt 72 14 [0x07, 0x10, 0x31, 0x32, 0x33, 0x41, 0x5A, 0x01, 0x49])))
      = some (rxAt 73 14 [0x07, 0x10, 0x31, 0x32, 0x33, 0x41, 0x5A, 0x01, 0x49, 0x80], none) := by decide
theorem test_exec_rxClear :
    rxView (exec .rxClear (at_ (rxAt 40 9 [0x05, 0x10, 0x31]))) = some (RxState.idle, none) := by decide
theorem test_exec_txMsg :
    (txView (exec (.txMsg reqA) (at_ (rxAt 40 9 [0x05])))).map (fun r =>
      match r with
      | .pulses ps => (ps.length, ps.take 9, airTime ps)
      | .fail _ => (0, [], 0))
      = some (73, [⟨.high, 2000⟩, ⟨.low, 500⟩, ⟨.high, 500⟩, ⟨.low, 500⟩, ⟨.high, 500⟩, ⟨.low, 500⟩, ⟨.high, 1000⟩,
          ⟨.low, 500⟩, ⟨.high, 1000⟩], 50000) := by decide
theorem test_exec_txMsg_rejected :
    txView (exec (.txMsg (.keychainRemote [0x32, 0x4B, 0x43, 0x30] 99 .off)) State.reset)
      = some (.fail (.constructionError .serial)) := by decide
theorem test_exec_status :
    (nextOf (exec .status (at_ (rxAt 39 9 [0x05, 0x10])))).bind (fun s => s.statusOut)
      = some ⟨.collecting, 39, 9⟩ := by decide

/-! ### Text and record -/

theorem test_text_pulses : readPulses "H2000 L500" = some [⟨.high, 2000⟩, ⟨.low, 500⟩] := by decide
theorem test_text_request :
    readRequest "KeypadDisarmPinRequest(serial=\"159MP\", sequence=0x3, pin=\"1379\")"
      = some (.pinRequest [0x31, 0x35, 0x39, 0x4D, 0x50] 3 [0x31, 0x33, 0x37, 0x39]) := by decide
/-- R337: a gap of 66036 microseconds is presented as 65535, an Invalid pulse, and not as `L500`. -/
theorem test_gap_saturates : gap 66036 = ⟨.low, 65535⟩ ∧ classify w0 (gap 66036) = .invalid := by decide
/-- A serial with a character above U+00FF is rejected as R219 has it. -/
theorem test_text_wide_character :
    (readRequest "EntrySensorMessage(serial=\"\u013123AZ\", sequence=0x0, event=Open)").map construct
      = some (.error (.constructionError .serial)) := rfl
theorem test_record_invalid_field :
    (rxRecord (.fail (.invalidField .pin [1, 2]))).kind = 5 ∧ (rxRecord (.fail (.invalidField .pin [1, 2]))).field = 4
      ∧ (rxRecord (.fail (.invalidField .pin [1, 2]))).len = 2 := by decide

/-! ### Witnesses: for each obligation with hypotheses, a state and operands that meet them together, one for each
clause at a boundary of its range -/

/-- A state of the invariant in the middle of an `ENTRY` frame, one bit before its end. -/
def sLast : State := at_ (rxAt 71 9 [0x05, 0x10, 0x31, 0x32, 0x33, 0x41, 0x5A, 0x01, 0x46])

/-- The longest frame attempt there is: 111 bits of an unknown frame. -/
def s111 : State := at_ (rxAt 111 14 [0x07, 0x10, 0x31, 0x32, 0x33, 0x41, 0x5A, 0x01, 0x49, 0, 0, 0, 0, 0x02])

/-- Fifteen bits of a header, and none. -/
def s15 : State := at_ (rxAt 15 0 [0x05, 0x10])
def s0 : State := at_ RxState.start

/-- Sixteen bits, the length just learnt. -/
def s16 : State := at_ (rxAt 16 9 [0x05, 0x10])

theorem inv_reset : State.reset.Inv := by decide
theorem inv_start : s0.Inv := by decide
theorem inv_15 : s15.Inv := by decide
theorem inv_16 : s16.Inv := by decide
theorem inv_last : sLast.Inv := by decide
theorem inv_111 : s111.Inv := by decide

theorem witness_DecodeEncodeRoundTrip :
    Instr.wf w0 (.zero ⟨.low, 375⟩) = true ∧ Instr.wf w0 (.one ⟨.high, 1249⟩) = true
      ∧ Instr.wf w0 (.preamble 2499) = true ∧ Instr.wf w0 (.invalid ⟨.low, 2499⟩) = true
      ∧ Instr.wf w0 (.unknown []) = true := by decide

theorem witness_StepRunsDecodedInstruction :
    ({ State.reset with input := [.port .status] } : State).input = .port .status :: [] ∧ State.reset.input = [] :=
  ⟨rfl, rfl⟩

theorem witness_ClassifyIsTheWindowTable :
    cfgOk cfgDefault = true ∧ classify w0 ⟨.low, 624⟩ = .zero ∧ classify w0 ⟨.high, 750⟩ = .one
      ∧ classify w0 ⟨.high, 1500⟩ = .preamble ∧ classify w0 ⟨.low, 1500⟩ = .invalid
      ∧ classify w0 ⟨.high, 2500⟩ = .invalid := by decide

theorem witness_DataBitWhileScanningIsSkipped : State.reset.rx.rxSt = .waiting := rfl

theorem witness_DataBitIsShiftedIn_first :
    s0.Inv ∧ s0.rx.rxSt = .collecting ∧ ¬ (s0.rx.expLen ≠ 0 ∧ s0.rx.nbits.toNat + 1 = 8 * s0.rx.expLen.toNat) :=
  ⟨inv_start, by decide, by decide⟩
theorem witness_DataBitIsShiftedIn_header :
    s15.Inv ∧ s15.rx.rxSt = .collecting
      ∧ ¬ (s15.rx.expLen ≠ 0 ∧ s15.rx.nbits.toNat + 1 = 8 * s15.rx.expLen.toNat) :=
  ⟨inv_15, by decide, by decide⟩
theorem witness_DataBitIsShiftedIn_after_header :
    s16.Inv ∧ s16.rx.rxSt = .collecting
      ∧ ¬ (s16.rx.expLen ≠ 0 ∧ s16.rx.nbits.toNat + 1 = 8 * s16.rx.expLen.toNat) :=
  ⟨inv_16, by decide, by decide⟩

theorem witness_LastDataBitCompletesFrame :
    sLast.Inv ∧ sLast.rx.rxSt = .collecting ∧ sLast.rx.expLen ≠ 0
      ∧ sLast.rx.nbits.toNat + 1 = 8 * sLast.rx.expLen.toNat :=
  ⟨inv_last, by decide, by decide, by decide⟩
theorem witness_LastDataBitCompletesFrame_longest :
    s111.Inv ∧ s111.rx.rxSt = .collecting ∧ s111.rx.expLen ≠ 0
      ∧ s111.rx.nbits.toNat + 1 = 8 * s111.rx.expLen.toNat :=
  ⟨inv_111, by decide, by decide, by decide⟩

theorem witness_PreambleStartsAttempt : State.reset.rx.rxSt = .waiting ∧ s111.rx.rxSt = .collecting := by decide

theorem witness_RxPulseArms :
    (classify State.reset.win ⟨.high, 2499⟩ = .preamble ∧ State.reset.rx.rxSt = .waiting)
      ∧ classify s111.win ⟨.low, 2499⟩ = .invalid
      ∧ (classify State.reset.win ⟨.low, 375⟩ = .zero ∧ classify State.reset.win ⟨.high, 1249⟩ = .one)
      ∧ (classify s111.win ⟨.high, 1500⟩ = .preamble ∧ s111.rx.rxSt = .collecting) := by decide

theorem witness_RxPulseResult : State.reset.Inv ∧ s111.Inv := ⟨inv_reset, inv_111⟩

theorem witness_FailureStateChange_invalid :
    ∃ t, exec (.rxPulse ⟨.low, 3000⟩) s111 = .next t
      ∧ t.rxResult = some (.fail (.timingInvalid .invalidPulse true 111)) := ⟨_, rfl, by decide⟩
theorem witness_FailureStateChange_preamble :
    ∃ t, exec (.rxPulse ⟨.high, 2000⟩) s0 = .next t
      ∧ t.rxResult = some (.fail (.timingInvalid .unexpectedPreamble true 0)) := ⟨_, rfl, by decide⟩
theorem witness_FailureStateChange_frame_kinds :
    (rxView (exec (.rxPulse ⟨.high, 500⟩) sLast)
        = some (RxState.idle,
            some (.fail (.checksumMismatch [0x05, 0x10, 0x31, 0x32, 0x33, 0x41, 0x5A, 0x01, 0x46]))))
      ∧ (rxView (exec (.rxPulse ⟨.high, 500⟩) (at_ (rxAt 111 14 (List.replicate 14 0))))
        = some (RxState.idle, some (.fail (.unrecognizedFormat (List.replicate 14 0)))))
      ∧ (rxView (exec (.rxPulse ⟨.high, 500⟩) (at_ (rxAt 71 9 [0x05, 0x10, 0x31, 0x32, 0x33, 0x41, 0x5A, 0x00, 0x46])))
        = some (RxState.idle,
            some (.fail (.invalidField .event [0x05, 0x10, 0x31, 0x32, 0x33, 0x41, 0x5A, 0x00, 0x46])))) := by decide

theorem witness_UnknownFrameResult :
    classOfFrame [] = none ∧ classOfFrame [0, 0] = none ∧ classOfFrame (List.replicate 14 0) = none
      ∧ classOfFrame (List.replicate 15 0) = none ∧ classOfFrame [0x05, 0x10, 0x16] = none := by decide

theorem witness_ResetConstructs : cfgOk cfg11 = true := by decide
theorem witness_ResetRefusesBadCfg : cfgOk { cfgDefault with tolBitPct := 100 } = false := by decide

theorem witness_RxClearWritesIdle : State.reset.Inv ∧ State.reset.rx.rxSt = .waiting := ⟨inv_reset, rfl⟩

theorem witness_TxMsgResult :
    construct reqA = .ok (.entrySensor ser123 0 .opened)
      ∧ construct (.entrySensor [0x31, 0x32, 0x33, 0x41, 0x5A] 16 .opened) = .error (.constructionError .sequence) := by
  decide

theorem witness_PortsHoldTheOperationsOutput :
    (nextOf (exec (.rxPulse ⟨.high, 500⟩) sLast)).isSome = true
      ∧ (nextOf (exec (decodeFrame fa) sLast)).isSome = true
      ∧ (nextOf (exec (.reset cfg11) sLast)).isSome = true ∧ (nextOf (exec .rxClear sLast)).isSome = true
      ∧ (nextOf (exec (.txMsg reqA) sLast)).isSome = true ∧ (nextOf (exec .status sLast)).isSome = true := by decide

theorem witness_ConstructorsCheckInWrittenOrder :
    construct (.pinRequest [0x31, 0x32, 0x33, 0x61, 0x7A] 3 []) = .error (.constructionError .serial)
      ∧ construct (.pinRequest [0x30, 0x39, 0x41, 0x5A, 0x30] 16 []) = .error (.constructionError .sequence)
      ∧ construct (.pinRequest [0x30, 0x39, 0x41, 0x5A, 0x30] 15 [0x31, 0x33, 0x61, 0x39])
        = .error (.constructionError .pin)
      ∧ construct (.pinRequest [0x30, 0x39, 0x41, 0x5A, 0x30] 15 [0x30, 0x39, 0x30, 0x39])
        = .ok (.pinRequest ⟨0x30, 0x39, 0x41, 0x5A, 0x30⟩ 15 ⟨0, 9, 0, 9⟩)
      ∧ construct (.pinResponse [0x30, 0x39, 0x41, 0x5A, 0x30] 0 [0x5B, 0x39, 0x41, 0x5A, 0x30] .valid)
        = .error (.constructionError .baseSerial)
      ∧ construct (.pinResponse [0x30, 0x39, 0x41, 0x5A, 0x30] 0 [0x5A, 0x39, 0x41, 0x5A, 0x30] .valid)
        = .ok (.pinResponse ⟨0x30, 0x39, 0x41, 0x5A, 0x30⟩ 0 ⟨0x5A, 0x39, 0x41, 0x5A, 0x30⟩ .valid) := by decide

/-- A parsed message that no constructor builds (R231, V50). -/
theorem witness_MessagesAreInTheirDomains :
    construct reqA = .ok (.entrySensor ser123 0 .opened)
      ∧ parse sum8 [0x05, 0x10, 0x00, 0x7F, 0x20, 0x61, 0x7E, 0x02, 0x95]
        = .ok (.entrySensor ⟨0x00, 0x7F, 0x20, 0x61, 0x7E⟩ 0 .closed) := by decide

theorem witness_ReceiveRowsFrame :
    (nextOf (exec (.zero ⟨.high, 500⟩) s0)).isSome = true ∧ (nextOf (exec (.one ⟨.low, 1000⟩) s0)).isSome = true
      ∧ (nextOf (exec (.preamble 2000) s0)).isSome = true ∧ (nextOf (exec (.invalid ⟨.low, 0⟩) s0)).isSome = true
      ∧ (nextOf (exec (.rxPulse ⟨.high, 500⟩) s0)).isSome = true := by decide

theorem witness_DataBitFrameOfBuf :
    (State.reset.Inv ∧ rxView (exec (.one ⟨.low, 1000⟩) State.reset) = some (RxState.idle, none))
      ∧ (s15.Inv ∧ rxView (exec (.one ⟨.low, 1000⟩) s15) = some (rxAt 16 9 [0x05, 0x11], none))
      ∧ (sLast.Inv ∧ (rxView (exec (.one ⟨.low, 1000⟩) sLast)).map (fun v => v.1) = some RxState.idle) :=
  ⟨⟨inv_reset, by decide⟩, ⟨inv_15, by decide⟩, ⟨inv_last, by decide⟩⟩

theorem witness_ClearingRowsFrame :
    (nextOf (exec (.preamble 2000) s111)).isSome = true ∧ (nextOf (exec (.invalid ⟨.low, 0⟩) s111)).isSome = true
      ∧ (nextOf (exec .rxClear s111)).isSome = true ∧ (nextOf (exec (.reset cfg11) s111)).isSome = true := by decide

theorem witness_NonReceivingRowsFrame :
    (nextOf (exec (.entry 0 ser123 0x01 0x47) s111)).isSome = true
      ∧ (nextOf (exec (.pinresp 0 ser159 ser0A1 0x01 0) s111)).isSome = true
      ∧ (nextOf (exec (.unknown []) s111)).isSome = true ∧ (nextOf (exec (.txMsg reqA) s111)).isSome = true
      ∧ (nextOf (exec .status s111)).isSome = true := by decide

theorem witness_OnlyResetChangesCfg :
    ∃ t, step { State.reset with input := [.port (.reset cfg11)] } = .next t ∧ t.cfg ≠ State.reset.cfg :=
  ⟨_, rfl, by decide⟩

theorem witness_TxMsgIgnoresReceiveState :
    ∃ t t', State.reset.cfg = s111.cfg ∧ exec (.txMsg reqA) State.reset = .next t
      ∧ exec (.txMsg reqA) s111 = .next t' := ⟨_, _, rfl, rfl, rfl⟩

theorem witness_StepKeepsInvariant :
    s15.Inv ∧ ∃ t, step { s15 with input := [.pulse (pulseWord ⟨.low, 500⟩)] } = .next t := ⟨inv_15, _, rfl⟩

theorem witness_NbitsAndExpLenBounds :
    (State.reset.Inv ∧ State.reset.rx.rxSt = .waiting)
      ∧ (s15.Inv ∧ s15.rx.rxSt = .collecting ∧ s15.rx.expLen = 0)
      ∧ (s111.Inv ∧ s111.rx.rxSt = .collecting ∧ s111.rx.expLen ≠ 0) :=
  ⟨⟨inv_reset, rfl⟩, ⟨inv_15, rfl, rfl⟩, ⟨inv_111, rfl, by decide⟩⟩

theorem witness_EveryOperationCompletes :
    ({ s111 with input := [.port (.reset cfg11)] } : State).Inv
      ∧ ({ s111 with input := [.port (.reset cfg11)] } : State).input = .port (.reset cfg11) :: [] ∧ cfgOk cfg11 = true :=
  ⟨inv_111, rfl, by decide⟩

theorem witness_PortsHoldLegalResults :
    portsOk State.reset = true ∧ oneOutput State.reset = true
      ∧ ∃ t, step { State.reset with input := [.frame fa] } = .next t ∧ t.rxResult ≠ none :=
  ⟨by decide, by decide, _, rfl, by decide⟩

theorem witness_PulseRoundTrip :
    cfgOk cfgDefault = true
      ∧ encodePulses cfgDefault [.preamble, .zero, .one, .one]
        = some [⟨.high, 2000⟩, ⟨.low, 500⟩, ⟨.high, 1000⟩, ⟨.low, 1000⟩]
      ∧ (∀ x ∈ [TxSymbol.zero, .one], x ≠ .preamble) := by decide

theorem witness_EncodedFrameShape : cfgOk cfgDefault = true ∧ cfgOk cfg11 = true := by decide

theorem witness_FrameRoundTrip :
    (2 ≤ faBody.length ∧ frameLen (byteAt faBody 0) (hiNibble (byteAt faBody 1)) = faBody.length + 1)
      ∧ 2 ≤ ([0x05, 0x10] : Bytes).length
      ∧ frameLen (byteAt [0x05, 0x10] 0) (hiNibble (byteAt [0x05, 0x10] 1)) ≠ ([0x05, 0x10] : Bytes).length + 1 := by
  decide

theorem witness_ParseOfSerialize :
    messageOk (.entrySensor ⟨0x00, 0x7F, 0x20, 0x61, 0x7E⟩ 15 .closed) = true
      ∧ messageOk (.pinRequest ser159 3 ⟨0, 9, 0, 9⟩) = true
      ∧ messageOk (.pinResponse ser159 3 ser0A1 .valid) = true := by decide

theorem witness_SerializeOfParse : parse sum8 fa = .ok (.entrySensor ser123 0 .opened) := by decide

theorem witness_TransmittedMessageIsReceived :
    State.reset.Inv ∧ ∃ t ps, exec (.txMsg reqA) State.reset = .next t ∧ t.txResult = some (.pulses ps) :=
  ⟨inv_reset, _, _, rfl, rfl⟩

theorem witness_RunOfPulsesIsTheStream : s111.Inv := inv_111

theorem witness_NoiseAndGapResilience :
    cfgOk cfgDefault = true ∧ 2 ≤ faBody.length
      ∧ frameLen (byteAt faBody 0) (hiNibble (byteAt faBody 1)) = faBody.length + 1
      ∧ classify w0 ⟨.high, 100⟩ = .invalid ∧ classify w0 (gap 2000) = .invalid ∧ classify w0 (gap 500) = .zero := by
  decide

theorem witness_NoPreambleNoFrame :
    ∀ p ∈ ([⟨.low, 375⟩, ⟨.high, 1249⟩] : List Pulse), classify w0 p = .zero ∨ classify w0 p = .one := by decide

/-- A reduction with `chk_single_bit`: the exclusive-or taken from the last byte on. -/
def xorFromRight (b : Bytes) : Byte := b.foldr (fun x acc => x ^^^ acc) 0

theorem xorFromRight_flip (b : Bytes) (i j : Nat) (hi : i < b.length) :
    xorFromRight (flipBit b i j) = xorFromRight b ^^^ (1#8 <<< j) := by
  induction b generalizing i with
  | nil => simp at hi
  | cons x rest ih =>
    cases i with
    | zero =>
      simp only [flipBit, List.modify_zero_cons, xorFromRight, List.foldr_cons]
      ac_rfl
    | succ k =>
      have := ih k (by simpa using hi)
      simp only [flipBit, xorFromRight] at this
      simp only [flipBit, List.modify_succ_cons, xorFromRight, List.foldr_cons, this]
      ac_rfl

theorem witness_FlippedBodyBitIsAMismatch :
    ChkSingleBit xorFromRight ∧ 7 < faBody.length ∧ (7 : Nat) < 8 ∧ faBody.length + 1 ≤ 14 := by
  refine ⟨?_, by decide, by decide, by decide⟩
  intro b i j hi hj h
  rw [xorFromRight_flip b i j hi] at h
  have h0 : (1#8 <<< j) = 0#8 := by
    have := congrArg (fun x => xorFromRight b ^^^ x) h
    simpa [← BitVec.xor_assoc] using this
  interval_cases j <;> exact absurd h0 (by decide)

theorem witness_RecordDeterminesResult :
    (failureFrame (.checksumMismatch (List.replicate 14 0xFF))).length ≤ 14 := by decide

/-- Each kind of width, one over its bound (R265). -/
theorem witness_RequestOverThePortWidthIsRejected :
    TxReq.fitsPort (.pinRequest [0x31, 0x32, 0x33, 0x41, 0x5A] 3 (List.replicate 256 0x30)) = false
      ∧ TxReq.fitsPort (.entrySensor (List.replicate 256 0x30) 0 .opened) = false
      ∧ TxReq.fitsPort (.keychainRemote [0x31, 0x32, 0x33, 0x41, 0x5A] 256 .off) = false := by decide +kernel

/-- A channel that was never constructed, with two requests that leave it so before one that constructs it (R260). -/
theorem witness_ResetConstructsAgainAfterRefusal :
    let bad := { cfgDefault with tolBitPct := 50 }
    cfgOk bad = false ∧ cfgOk cfg11 = true
      ∧ Channel.step^[3] (.absent .notConstructed [.port .status, .port (.reset bad), .port (.reset cfg11)])
        = .live { State.reset with cfg := cfg11, win := windowsOf cfg11 } := ⟨by decide, by decide, rfl⟩

/-- A refused `RESET` takes the instance of its own channel; the other one goes on (R270, R321). -/
theorem test_platform_refusal_is_local :
    Platform.run
        [.live { State.reset with input := [.port (.reset { cfgDefault with tolBitPct := 50 })] },
          .live { State.reset with input := [.port .status] }] [0, 1, 0]
      = [.absent (.refused .cfgNotOk) [], .live { State.reset with statusOut := some ⟨.waiting, 0, 0⟩ }] := rfl

end Sys2Proof.Tests
end

/-!
The statements about the state of `10_state.md`: the default configuration (R40), what `RESET` leaves (R49), what
`TX_MSG` reads (R46).
-/

namespace Sys2Proof.Proofs

open Sys2Proof.Machine

/-! ### The configuration's windows -/

/-- The six constants with R39's formulas in place of `delta`. -/
theorem windowsOf_eq (c : Cfg) :
    windowsOf c =
      { zLo := c.tZero - c.tZero * c.tolBitPct / 100, zHi := c.tZero + c.tZero * c.tolBitPct / 100
        oLo := c.tOne - c.tOne * c.tolBitPct / 100, oHi := c.tOne + c.tOne * c.tolBitPct / 100
        pLo := c.tPre - c.tPre * c.tolPrePct / 100, pHi := c.tPre + c.tPre * c.tolPrePct / 100 } := rfl

/-- R40's constants: a quarter of each nominal duration on either side of it. -/
theorem windowsOf_cfgDefault :
    windowsOf cfgDefault = { zLo := 375, zHi := 625, oLo := 750, oHi := 1250, pLo := 1500, pHi := 2500 } := by
  rw [windowsOf_eq]
  decide

theorem cfgOk_cfgDefault : cfgOk cfgDefault = true := by decide

/-- Settles O6. -/
theorem defaultConfigurationWindows : Obligations.DefaultConfigurationWindows :=
  ⟨rfl, windowsOf_cfgDefault, cfgOk_cfgDefault⟩

/-! ### `RESET` -/

theorem exec_reset (c : Cfg) (s : State) : exec (.reset c) s = execReset c s := rfl

/-- With `cfg_ok`, `RESET` is construction (R260). -/
theorem execReset_of_cfgOk (c : Cfg) (s : State) (h : cfgOk c = true) :
    execReset c s = .next (s.construct c) := if_pos h

/-- Settles O22: what `RESET` leaves is the constructed instance, whose fields R49's table gives. -/
theorem resetConstructs : Obligations.ResetConstructs := by
  intro s c hok
  have hrun : exec (.reset c) s = .next (s.construct c) :=
    (exec_reset c s).trans (execReset_of_cfgOk c s hok)
  have hbuf : ∀ a, Memory.read (s.construct c).rx.buf a = 0 := fun a => Memory.read_nil a
  exact ⟨s.construct c, hrun, State.construct_cfg c s, windowsOf_eq c, State.construct_rx c s, hbuf,
    State.construct_rxResult c s, State.construct_txResult c s, State.construct_input c s⟩

/-! ### `TX_MSG` -/

theorem exec_txMsg (r : TxReq) (s : State) : exec (.txMsg r) s = execTxMsg r s := rfl

/-- What `TX_MSG` puts on `tx_result`, from the configuration and the request alone (R46). `execTxMsg_eq` ties it to the
model. -/
def txOutput (c : Cfg) (r : TxReq) : TxResult :=
  match construct r with
  | .error f => .fail f
  | .ok m => .pulses (encodeFrom c 0 (disassemble (body m) (checksumOf c.checksum)))

/-- `TX_MSG` always completes: it emits `txOutput` of its configuration and request, and does nothing else. -/
theorem execTxMsg_eq (r : TxReq) (s : State) :
    execTxMsg r s = .next (s.emitTx (txOutput s.cfg r)) := by
  rcases execTxMsg_cases r s with ⟨fl, hc, hrun⟩ | ⟨m, hc, hrun⟩
  · rw [hrun, txOutput, hc]
  · rw [hrun, txOutput, hc]

/-- Where `TX_MSG` leads: the state it ran on with `txOutput` emitted. -/
theorem eq_emitTx_of_exec_txMsg {r : TxReq} {s t : State} (h : exec (.txMsg r) s = .next t) :
    t = s.emitTx (txOutput s.cfg r) := by
  rw [exec_txMsg, execTxMsg_eq] at h
  injection h with h
  exact h.symm

/-- Settles O35: both outputs are `txOutput` of the one configuration and request, and emitting leaves `RxState` alone. -/
theorem txMsgIgnoresReceiveState : Obligations.TxMsgIgnoresReceiveState := by
  intro s s' t t' r hcfg ht ht'
  obtain rfl := eq_emitTx_of_exec_txMsg ht
  obtain rfl := eq_emitTx_of_exec_txMsg ht'
  have hout : txOutput s.cfg r = txOutput s'.cfg r := by rw [hcfg]
  exact ⟨congrArg some hout, State.emitTx_rx _ s, State.emitTx_rx _ s'⟩

end Sys2Proof.Proofs

/-!
The four arms of the symbol step that need no place in `BUF`, run by `RX_PULSE` (`41_frame_assembler.md`, R161, R162,
R163, R165).
-/

namespace Sys2Proof.Proofs

open Sys2Proof.Machine

/-! ### The arms on the receive state -/

/-- Leaving idle reports whether a frame attempt was in progress and how many bits were lost (R162). -/
theorem rxSymbolStep_invalid (chk : Bytes → Byte) (r : RxState) :
    rxSymbolStep chk r .invalid
      = (RxState.idle, some (.fail (.timingInvalid .invalidPulse (r.rxSt == .collecting) r.nbits))) := rfl

/-- A start (R161). -/
theorem rxSymbolStep_preamble_of_waiting (chk : Bytes → Byte) {r : RxState} (h : r.rxSt = .waiting) :
    rxSymbolStep chk r .preamble = (RxState.start, none) := by
  simp only [rxSymbolStep, asmStep, h, Option.map_none]

/-- A restart: the attempt in progress is reported lost (R165). -/
theorem rxSymbolStep_preamble_of_collecting (chk : Bytes → Byte) {r : RxState} (h : r.rxSt = .collecting) :
    rxSymbolStep chk r .preamble
      = (RxState.start, some (.fail (.timingInvalid .unexpectedPreamble true r.nbits))) := by
  simp only [rxSymbolStep, asmStep, h, Option.map_some, resultOfAsm]

theorem shiftIn_of_waiting (chk : Bytes → Byte) {r : RxState} (b : Bool) (h : r.rxSt = .waiting) :
    shiftIn chk r b = (r, none) := by
  simp only [shiftIn, h]

/-- A data bit while scanning is skipped, whatever its value (R163). -/
theorem rxSymbolStep_bit_of_waiting (chk : Bytes → Byte) {r : RxState} {sym : Symbol} (hbit : sym = .zero ∨ sym = .one)
    (h : r.rxSt = .waiting) : rxSymbolStep chk r sym = (r, none) := by
  rcases hbit with rfl | rfl
  · simp only [rxSymbolStep, asmStep, shiftIn_of_waiting chk false h, Option.map_none]
  · simp only [rxSymbolStep, asmStep, shiftIn_of_waiting chk true h, Option.map_none]

/-- While scanning no symbol needs a place in `BUF`, in states outside the invariant too. -/
theorem bitOutOfBuf_of_waiting {r : RxState} (sym : Symbol) (h : r.rxSt = .waiting) : bitOutOfBuf r sym = false := by
  cases sym <;> simp [bitOutOfBuf, h]

/-! ### `RX_PULSE` -/

theorem exec_rxPulse (p : Pulse) (s : State) : exec (.rxPulse p) s = receive (classify s.win p) s := rfl

/-- `RX_PULSE` carries a symbol step of the receive state over to the machine: the receive state and `rx_result` are the
step's, and configuration, window constants and requests stay (R261). -/
theorem exec_rxPulse_of_rxSymbolStep {s : State} {p : Pulse} {r : RxState} {res : Option RxResult}
    (hbuf : bitOutOfBuf s.rx (classify s.win p) = false)
    (hstep : rxSymbolStep (checksumOf s.cfg.checksum) s.rx (classify s.win p) = (r, res)) :
    ∃ t, exec (.rxPulse p) s = .next t
      ∧ t.rx = r ∧ t.rxResult = res ∧ t.cfg = s.cfg ∧ t.win = s.win ∧ t.input = s.input :=
  ⟨_, (exec_rxPulse p s).trans (receive_next _ s hbuf), congrArg Prod.fst hstep, congrArg Prod.snd hstep, rfl, rfl, rfl⟩

/-- Settles O15: none of the four arms can run out of `BUF`, so each is its symbol step carried over by `RX_PULSE`. -/
theorem rxPulseArms : Obligations.RxPulseArms := by
  intro s p
  refine ⟨fun hsym hst => ?start, fun hsym => ?abort, fun hsym hst => ?skip, fun hsym hst => ?restart⟩
  case start =>
    exact exec_rxPulse_of_rxSymbolStep (bitOutOfBuf_of_waiting _ hst)
      (hsym ▸ rxSymbolStep_preamble_of_waiting _ hst)
  case abort =>
    exact exec_rxPulse_of_rxSymbolStep (hsym ▸ bitOutOfBuf_invalid s.rx) (hsym ▸ rxSymbolStep_invalid _ s.rx)
  case skip =>
    exact exec_rxPulse_of_rxSymbolStep (bitOutOfBuf_of_waiting _ hst) (rxSymbolStep_bit_of_waiting _ hsym hst)
  case restart =>
    exact exec_rxPulse_of_rxSymbolStep (hsym ▸ bitOutOfBuf_preamble s.rx)
      (hsym ▸ rxSymbolStep_preamble_of_collecting _ hst)

end Sys2Proof.Proofs

/-!
The constructors of `42_message_codec.md` (R213 to R221): what makes an argument acceptable, and that serial, sequence
and the variant's own argument are checked in this order.
-/

namespace Sys2Proof.Proofs

open Sys2Proof.Machine

/-! ### The argument checks -/

theorem isDigitCode_iff (c : Byte) : isDigitCode c = true ↔ 0x30 ≤ c.toNat ∧ c.toNat ≤ 0x39 := by
  simp only [isDigitCode, Bool.and_eq_true, decide_eq_true_eq]

theorem isUpperCode_iff (c : Byte) : isUpperCode c = true ↔ 0x41 ≤ c.toNat ∧ c.toNat ≤ 0x5A := by
  simp only [isUpperCode, Bool.and_eq_true, decide_eq_true_eq]

/-- R219 as a property of the text: five characters, each a digit or an upper-case letter. `serialArg_of_serialText` and
`serialArg_of_not_serialText` tie it to the model. -/
def SerialText (t : Bytes) : Prop :=
  t.length = 5 ∧ ∀ c ∈ t, (0x30 ≤ c.toNat ∧ c.toNat ≤ 0x39) ∨ (0x41 ≤ c.toNat ∧ c.toNat ≤ 0x5A)

/-- R220 as a property of the text: four digits. `pinArg_of_pinText` and `pinArg_of_not_pinText` tie it to the model. -/
def PinText (t : Bytes) : Prop :=
  t.length = 4 ∧ ∀ c ∈ t, 0x30 ≤ c.toNat ∧ c.toNat ≤ 0x39

theorem all_serialCode_iff (t : Bytes) :
    (t.all fun x => isDigitCode x || isUpperCode x) = true
      ↔ ∀ c ∈ t, (0x30 ≤ c.toNat ∧ c.toNat ≤ 0x39) ∨ (0x41 ≤ c.toNat ∧ c.toNat ≤ 0x5A) := by
  simp only [List.all_eq_true, Bool.or_eq_true, isDigitCode_iff, isUpperCode_iff]

theorem all_isDigitCode_iff (t : Bytes) :
    t.all isDigitCode = true ↔ ∀ c ∈ t, 0x30 ≤ c.toNat ∧ c.toNat ≤ 0x39 := by
  simp only [List.all_eq_true, isDigitCode_iff]

/-- An accepted serial text is the serial number, character by character (R219). -/
theorem serialArg_of_serialText {t : Bytes} (h : SerialText t) : serialArg t = some (serialAt t 0) := by
  obtain ⟨hlen, hcodes⟩ := h
  match t, hlen with
  | [_, _, _, _, _], _ => exact if_pos ((all_serialCode_iff _).mpr hcodes)

theorem serialArg_of_not_serialText {t : Bytes} (h : ¬ SerialText t) : serialArg t = none := by
  unfold serialArg
  split
  · exact if_neg fun hall => h ⟨rfl, (all_serialCode_iff _).mp hall⟩
  · rfl

/-- The digits of a PIN text, the leftmost first (R220). -/
def pinOfText (t : Bytes) : Pin :=
  ⟨digitOf (byteAt t 0), digitOf (byteAt t 1), digitOf (byteAt t 2), digitOf (byteAt t 3)⟩

theorem pinArg_of_pinText {t : Bytes} (h : PinText t) : pinArg t = some (pinOfText t) := by
  obtain ⟨hlen, hcodes⟩ := h
  match t, hlen with
  | [_, _, _, _], _ => exact if_pos ((all_isDigitCode_iff _).mpr hcodes)

theorem pinArg_of_not_pinText {t : Bytes} (h : ¬ PinText t) : pinArg t = none := by
  unfold pinArg
  split
  · exact if_neg fun hall => h ⟨rfl, (all_isDigitCode_iff _).mp hall⟩
  · rfl

theorem seqArg_of_le {n : Nat} (h : n ≤ 15) : seqArg n = some (BitVec.ofNat 4 n) := if_pos h

/-- A number above 15 is rejected, not reduced modulo 16 (R221). -/
theorem seqArg_of_gt {n : Nat} (h : 15 < n) : seqArg n = none := if_neg (Nat.not_le_of_gt h)

/-! ### The shared checks, in written order -/

section
variable {t : Bytes} {n : Nat} (k : Serial → Nibble → Except Failure Message)

/-- The serial comes first: a bad one is reported whatever the sequence number. -/
theorem withSerialSeq_of_not_serialText (ht : ¬ SerialText t) :
    withSerialSeq t n k = .error (.constructionError .serial) := by
  simp only [withSerialSeq, serialArg_of_not_serialText ht]

theorem withSerialSeq_of_gt (ht : SerialText t) (hn : 15 < n) :
    withSerialSeq t n k = .error (.constructionError .sequence) := by
  simp only [withSerialSeq, serialArg_of_serialText ht, seqArg_of_gt hn]

/-- Past both checks the constructor goes on with the serial and the sequence number as they were given. -/
theorem withSerialSeq_of_ok (ht : SerialText t) (hn : n ≤ 15) :
    withSerialSeq t n k = k (serialAt t 0) (BitVec.ofNat 4 n) := by
  simp only [withSerialSeq, serialArg_of_serialText ht, seqArg_of_le hn]

end

/-! ### The PIN and the base serial -/

section
variable {t : Bytes} {n : Nat}

theorem constructPinRequest_of_not_pinText {p : Bytes} (ht : SerialText t) (hn : n ≤ 15) (hp : ¬ PinText p) :
    constructPinRequest t n p = .error (.constructionError .pin) := by
  simp only [constructPinRequest, withSerialSeq_of_ok _ ht hn, pinArg_of_not_pinText hp]

theorem constructPinRequest_of_ok {p : Bytes} (ht : SerialText t) (hn : n ≤ 15) (hp : PinText p) :
    constructPinRequest t n p = .ok (.pinRequest (serialAt t 0) (BitVec.ofNat 4 n) (pinOfText p)) := by
  simp only [constructPinRequest, withSerialSeq_of_ok _ ht hn, pinArg_of_pinText hp]

theorem constructPinResponse_of_not_serialText {b : Bytes} (r : PinResponse) (ht : SerialText t) (hn : n ≤ 15)
    (hb : ¬ SerialText b) : constructPinResponse t n b r = .error (.constructionError .baseSerial) := by
  simp only [constructPinResponse, withSerialSeq_of_ok _ ht hn, serialArg_of_not_serialText hb]

theorem constructPinResponse_of_ok {b : Bytes} (r : PinResponse) (ht : SerialText t) (hn : n ≤ 15)
    (hb : SerialText b) :
    constructPinResponse t n b r = .ok (.pinResponse (serialAt t 0) (BitVec.ofNat 4 n) (serialAt b 0) r) := by
  simp only [constructPinResponse, withSerialSeq_of_ok _ ht hn, serialArg_of_serialText hb]

end

/-- Settles O28: each constructor is the shared checks followed by its own, so the first two clauses are the shared
checks' failures and the third is what comes after them. -/
theorem constructorsCheckInWrittenOrder : Obligations.ConstructorsCheckInWrittenOrder := by
  intro t b pn n e mo ke pr
  refine ⟨fun (ht : ¬ SerialText t) => ?badSerial, fun (ht : SerialText t) hn => ?badSequence,
    fun (ht : SerialText t) hn => ?accepted⟩
  case badSerial =>
    have fails k : withSerialSeq t n k = .error (.constructionError .serial) := withSerialSeq_of_not_serialText k ht
    exact ⟨fails _, fails _, fails _, fails _, fails _⟩
  case badSequence =>
    have fails k : withSerialSeq t n k = .error (.constructionError .sequence) := withSerialSeq_of_gt k ht hn
    exact ⟨fails _, fails _, fails _, fails _, fails _⟩
  case accepted =>
    exact ⟨withSerialSeq_of_ok _ ht hn, withSerialSeq_of_ok _ ht hn, withSerialSeq_of_ok _ ht hn,
      constructPinRequest_of_not_pinText ht hn, constructPinRequest_of_ok ht hn,
      constructPinResponse_of_not_serialText pr ht hn, constructPinResponse_of_ok pr ht hn⟩

end Sys2Proof.Proofs

/-!
The statements about the host operations of `43_host_operations.md`: what `RX_PULSE` gives for a whole frame (R261),
`RX_CLEAR` (R263), the pulse sequence of `TX_MSG` (R264), `STATUS` (R269).
-/

namespace Sys2Proof.Proofs

open Sys2Proof.Machine

/-! ### A completed frame on the receive state -/

/-- The expected length after a bit, in a state of R36: not yet known, or 9 to 14 bytes (R110, R167). -/
theorem lenAfter_of_inv {r : RxState} (b : Bool) (h : r.Inv) (hc : r.rxSt = .collecting) :
    lenAfter r b = 0 ∨ (9 ≤ lenAfter r b ∧ lenAfter r b ≤ 14) := by
  obtain ⟨-, -, hbefore, hafter, -⟩ := h
  unfold lenAfter
  split
  case isTrue => exact .inr (frameLen_pos _ _)
  case isFalse =>
    rcases Nat.lt_or_ge r.nbits.toNat 16 with hlt | hge
    · left
      rw [hbefore hc hlt]
      rfl
    · right
      obtain ⟨hlen, -⟩ := hafter hc hge
      rw [hlen]
      exact frameLen_pos _ _

theorem lenAfter_ne_zero_of_completes {r : RxState} {b : Bool} (h : completes r b = true) : lenAfter r b ≠ 0 := by
  simp only [completes, Bool.and_eq_true, decide_eq_true_eq] at h
  exact h.1

@[simp] theorem length_frameAfter (r : RxState) (b : Bool) : (frameAfter r b).length = lenAfter r b :=
  Memory.length_readBytes _ _ _

/-- `validate` passes a frame on as it is, and only with its checksum right (R169). -/
theorem validate_eq_ok {chk : Bytes → Byte} {f g : Bytes} (h : validate chk f = .ok g) :
    f = g ∧ chk (bodyOf f) = chkOf f := by
  rcases validate_cases chk f with ⟨hchk, hv⟩ | ⟨-, hv⟩
  · rw [hv] at h
    injection h with h
    exact ⟨h, hchk⟩
  · rw [hv] at h
    cases h

theorem shiftIn_eq_ok {chk : Bytes → Byte} {r : RxState} {b : Bool} {f : Bytes}
    (h : (shiftIn chk r b).2 = some (.ok f)) :
    r.rxSt = .collecting ∧ completes r b = true ∧ f = frameAfter r b ∧ chk (bodyOf f) = chkOf f := by
  rcases shiftIn_cases chk r b with ⟨-, hs⟩ | ⟨hc, hcomp, hs⟩ | ⟨-, -, hs⟩
  case inl => rw [hs] at h; cases h
  case inr.inr => rw [hs] at h; cases h
  case inr.inl =>
    rw [hs] at h
    injection h with h
    obtain ⟨rfl, hchk⟩ := validate_eq_ok h
    exact ⟨hc, hcomp, rfl, hchk⟩

/-- Only the completing data bit gives a whole frame, and its checksum has been tested (R166). -/
theorem asmStep_eq_ok {chk : Bytes → Byte} {r : RxState} {sym : Symbol} {f : Bytes}
    (h : (asmStep chk r sym).2 = some (.ok f)) :
    ∃ b, r.rxSt = .collecting ∧ completes r b = true ∧ f = frameAfter r b ∧ chk (bodyOf f) = chkOf f := by
  cases sym with
  | zero => exact ⟨false, shiftIn_eq_ok h⟩
  | one => exact ⟨true, shiftIn_eq_ok h⟩
  | invalid => cases h
  | preamble =>
    simp only [asmStep] at h
    split at h <;> cases h

/-- With a legal length and the right checksum, `parse` comes down to `dispatch` (R205). -/
theorem parse_eq_dispatch {chk : Bytes → Byte} {f : Bytes} (hlo : 2 ≤ f.length) (hhi : f.length ≤ 14)
    (hchk : chk (bodyOf f) = chkOf f) : parse chk f = dispatch f := by
  have hlen : ¬ lengthOut f = true := by
    rw [lengthOut_iff]
    omega
  rw [parse, if_neg hlen, checked, if_pos hchk]

/-- A frame that the assembler completes has passed every test that `parse` makes before `dispatch` (R261). -/
theorem parse_of_asmStep_eq_ok {chk : Bytes → Byte} {r : RxState} {sym : Symbol} {f : Bytes} (hinv : r.Inv)
    (h : (asmStep chk r sym).2 = some (.ok f)) : parse chk f = dispatch f := by
  obtain ⟨b, hc, hcomp, rfl, hchk⟩ := asmStep_eq_ok h
  have hne := lenAfter_ne_zero_of_completes hcomp
  have hlen := lenAfter_of_inv b hinv hc
  refine parse_eq_dispatch ?_ ?_ hchk <;> rw [length_frameAfter] <;> omega

/-! ### The failures of a receive step -/

theorem rxFailureKind_cases {x : Failure} (h : rxFailureKind x = true) :
    (∃ c b n, x = .timingInvalid c b n) ∨ (∃ f, x = .checksumMismatch f) ∨ (∃ f, x = .unrecognizedFormat f)
      ∨ ∃ fl f, x = .invalidField fl f := by
  cases x with
  | timingInvalid c b n => exact .inl ⟨c, b, n, rfl⟩
  | checksumMismatch f => exact .inr (.inl ⟨f, rfl⟩)
  | unrecognizedFormat f => exact .inr (.inr (.inl ⟨f, rfl⟩))
  | invalidField fl f => exact .inr (.inr (.inr ⟨fl, f, rfl⟩))
  | preambleNotFound => cases h
  | constructionError fl => cases h

theorem rxFailureKind_of_dispatch {f : Bytes} {x : Failure} (h : dispatch f = .fail x) : rxFailureKind x = true := by
  rcases dispatch_cases f with hd | ⟨fl, hd⟩ | ⟨m, hd, -⟩ <;> rw [hd] at h <;> cases h <;> rfl

/-- The assembler's own failures and those of `dispatch` are all of the kinds that R262 lets on `rx_result`. -/
theorem rxFailureKind_of_rxSymbolStep {chk : Bytes → Byte} {r : RxState} {sym : Symbol} {x : Failure}
    (h : (rxSymbolStep chk r sym).2 = some (.fail x)) : rxFailureKind x = true := by
  obtain ⟨a, ha, hx⟩ := Option.map_eq_some_iff.mp h
  rcases asmStep_result chk r _ sym a (Prod.ext rfl ha) with ⟨c, b, n, rfl, -⟩ | ⟨f, rfl, -⟩ | ⟨f, rfl, -⟩
  · cases hx; rfl
  · cases hx; rfl
  · exact rxFailureKind_of_dispatch hx

/-- Settles O16: `RX_PULSE` is the symbol step carried over, and a frame that completes has passed the tests of
`parse`. -/
theorem rxPulseResult : Obligations.RxPulseResult := by
  intro s p hinv chk a
  obtain ⟨-, -, hrx⟩ := hinv
  obtain ⟨t, hrun, hst, hres, hframe⟩ :=
    exec_rxPulse_of_rxSymbolStep (s := s) (p := p) (bitOutOfBuf_of_inv s.rx _ hrx) rfl
  have hmap : t.rxResult = a.2.map resultOfAsm := hres
  refine ⟨t, hrun, hst, ?result, ?isParse, ?kinds, hframe⟩
  case result =>
    rw [hmap]
    rcases a.2 with _ | f | x <;> rfl
  case isParse =>
    intro f hf
    rw [hmap, hf, parse_of_asmStep_eq_ok hrx hf]
    rfl
  case kinds =>
    intro x hx
    exact rxFailureKind_cases (rxFailureKind_of_rxSymbolStep (hres.symm.trans hx))

/-! ### The pulses of one frame -/

theorem getElem?_encodeFrom (c : Cfg) (syms : List TxSymbol) (i k : Nat) :
    (encodeFrom c i syms)[k]? = syms[k]?.map fun x => ⟨levelAt (i + k), nominal c x⟩ := by
  induction syms generalizing i k with
  | nil => rfl
  | cons x rest ih =>
    cases k with
    | zero => rfl
    | succ k =>
      rw [encodeFrom, List.getElem?_cons_succ, List.getElem?_cons_succ, ih, Nat.add_right_comm, Nat.add_assoc]

@[simp] theorem length_encodeFrom (c : Cfg) (syms : List TxSymbol) (i : Nat) :
    (encodeFrom c i syms).length = syms.length := by
  induction syms generalizing i with
  | nil => rfl
  | cons x rest ih => rw [encodeFrom, List.length_cons, List.length_cons, ih]

/-- Data symbol `k` of a frame: bit `7 - (k mod 8)` of byte `k div 8` (R62). `getElem?_bits` ties it to the model. -/
def dataSymbol (f : Bytes) (k : Nat) : TxSymbol :=
  if (byteAt f (k / 8)).getLsbD (7 - k % 8) then .one else .zero

@[simp] theorem length_byteSymbols (b : Byte) : (byteSymbols b).length = 8 := by
  rw [byteSymbols, List.length_map, List.length_range]

theorem bits_cons (b : Byte) (f : Bytes) : bits (b :: f) = byteSymbols b ++ bits f := List.flatMap_cons

@[simp] theorem length_bits (f : Bytes) : (bits f).length = 8 * f.length := by
  induction f with
  | nil => rfl
  | cons b rest ih =>
    rw [bits_cons, List.length_append, length_byteSymbols, ih, List.length_cons]
    omega

/-- The first eight data symbols are those of the first byte. -/
theorem getElem?_byteSymbols {b : Byte} {f : Bytes} {k : Nat} (hk : k < 8) :
    (byteSymbols b)[k]? = some (dataSymbol (b :: f) k) := by
  have hbyte : k / 8 = 0 := by omega
  have hbit : k % 8 = k := by omega
  simp [byteSymbols, dataSymbol, hk, hbyte, hbit, byteAt]

/-- Past the first byte the data symbols are those of the other bytes. -/
theorem dataSymbol_cons_add_eight (b : Byte) (f : Bytes) (k : Nat) : dataSymbol (b :: f) (k + 8) = dataSymbol f k := by
  have hbyte : (k + 8) / 8 = k / 8 + 1 := by omega
  have hbit : (k + 8) % 8 = k % 8 := by omega
  simp [dataSymbol, hbyte, hbit, byteAt]

theorem getElem?_bits {f : Bytes} {k : Nat} (hk : k < 8 * f.length) : (bits f)[k]? = some (dataSymbol f k) := by
  induction f generalizing k with
  | nil => simp at hk
  | cons b rest ih =>
    rw [bits_cons]
    rcases Nat.lt_or_ge k 8 with hlt | hge
    · rw [List.getElem?_append_left (by simpa using hlt), getElem?_byteSymbols hlt]
    · obtain ⟨j, rfl⟩ := Nat.exists_eq_add_of_le' hge
      have hj : j < 8 * rest.length := by
        rw [List.length_cons] at hk
        omega
      rw [List.getElem?_append_right (by simp), length_byteSymbols, Nat.add_sub_cancel, ih hj,
        dataSymbol_cons_add_eight]

/-- After the High mark the first data pulse is Low. -/
theorem levelAt_succ (k : Nat) : levelAt (k + 1) = if k % 2 = 0 then .low else .high := by
  unfold levelAt
  rcases Nat.mod_two_eq_zero_or_one k with h | h
  · rw [if_neg (by omega), if_pos h]
  · rw [if_pos (by omega), if_neg (by omega)]

theorem nominal_dataSymbol (c : Cfg) (f : Bytes) (k : Nat) :
    nominal c (dataSymbol f k)
      = BitVec.ofNat 16 (if (byteAt f (k / 8)).getLsbD (7 - k % 8) then c.tOne else c.tZero) := by
  unfold dataSymbol
  split <;> rfl

theorem length_wire (c : Cfg) (f : Bytes) : (wire c f).length = 1 + 8 * f.length := by
  rw [wire, length_encodeFrom, List.length_cons, length_bits, Nat.add_comm]

theorem getElem?_wire_zero (c : Cfg) (f : Bytes) : (wire c f)[0]? = some ⟨.high, BitVec.ofNat 16 c.tPre⟩ := rfl

/-- Pulse `k + 1` of a frame on the wire carries data bit `k` (R137). -/
theorem getElem?_wire_succ (c : Cfg) {f : Bytes} {k : Nat} (hk : k < 8 * f.length) :
    (wire c f)[k + 1]? = some ⟨if k % 2 = 0 then .low else .high,
      BitVec.ofNat 16 (if (byteAt f (k / 8)).getLsbD (7 - k % 8) then c.tOne else c.tZero)⟩ := by
  rw [wire, getElem?_encodeFrom, List.getElem?_cons_succ, getElem?_bits hk, Option.map_some, Nat.zero_add,
    levelAt_succ, nominal_dataSymbol]

/-! ### `TX_MSG` on the machine -/

theorem exec_txMsg_next (r : TxReq) (s : State) : exec (.txMsg r) s = .next (s.emitTx (txOutput s.cfg r)) :=
  (exec_txMsg r s).trans (execTxMsg_eq r s)

theorem txOutput_of_error (c : Cfg) {r : TxReq} {x : Failure} (h : construct r = .error x) :
    txOutput c r = .fail x := by
  rw [txOutput, h]

/-- An accepted request goes out as the pulses of its message's serialized frame (R117, R264). -/
theorem txOutput_of_ok (c : Cfg) {r : TxReq} {m : Message} (h : construct r = .ok m) :
    txOutput c r = .pulses (wire c (serialize (checksumOf c.checksum) m)) := by
  rw [txOutput, h]
  rfl

/-- Settles O26: `TX_MSG` emits `txOutput`, which is the constructor's error or the frame on the wire. -/
theorem txMsgResult : Obligations.TxMsgResult := by
  intro s r
  refine ⟨fun x hx => ?rejected, fun m hm => ?accepted⟩
  case rejected =>
    exact ⟨construct_error r x hx, _, exec_txMsg_next r s, congrArg some (txOutput_of_error s.cfg hx),
      rfl, rfl, rfl, rfl⟩
  case accepted =>
    exact ⟨_, wire s.cfg (serialize (checksumOf s.cfg.checksum) m), exec_txMsg_next r s,
      congrArg some (txOutput_of_ok s.cfg hm), rfl, rfl, rfl, rfl, length_wire _ _, getElem?_wire_zero _ _,
      fun _ hk => getElem?_wire_succ s.cfg hk⟩

/-! ### `RX_CLEAR` and `STATUS` -/

theorem exec_rxClear (s : State) : exec .rxClear s = .next (s.setRx RxState.idle) := rfl

theorem exec_status (s : State) : exec .status s = .next s.emitStatus := rfl

/-- `WaitingPreamble` has one value, idle (R36 (a)). -/
theorem rx_eq_idle_of_waiting {r : RxState} (hinv : r.Inv) (h : r.rxSt = .waiting) : r = RxState.idle := by
  obtain ⟨-, hwaiting, -, -, -⟩ := hinv
  exact hwaiting h

/-- Settles O24: `RX_CLEAR` writes idle, which is what a state of the invariant holds in `WaitingPreamble` already. -/
theorem rxClearWritesIdle : Obligations.RxClearWritesIdle := by
  intro s
  refine ⟨s.setRx RxState.idle, exec_rxClear s, State.setRx_rx _ s, State.setRx_rxResult _ s, State.setRx_cfg _ s,
    State.setRx_win _ s, State.setRx_input _ s, ?unchanged⟩
  intro hinv hst
  obtain ⟨-, -, hrx⟩ := hinv
  exact (rx_eq_idle_of_waiting hrx hst).symm

/-- Settles O25: `STATUS` emits the status view and does nothing else. -/
theorem statusGivesTheView : Obligations.StatusGivesTheView := fun s =>
  ⟨s.emitStatus, exec_status s, State.emitStatus_statusOut s, State.emitStatus_rx s, State.emitStatus_cfg s,
    State.emitStatus_win s, State.emitStatus_input s⟩

end Sys2Proof.Proofs

/-!
The decoder and the encoder (`30_encoding.md`): that they undo each other in both directions, and the two lookup tables.
-/

namespace Sys2Proof.Proofs

open Sys2Proof.Machine

/-! ### The lookup tables -/

/-- The length table gives a class's own header the class's length (R110). -/
theorem frameLen_own (c : FrameClass) : frameLen (devCode c) (mtCode c) = classLen c := by
  cases c <;> rfl

/-- Settles O4: a class found at the announced length names its own pair, and each of the five pairs has its class. -/
theorem lookupTablesAgree : Obligations.LookupTablesAgree := by
  intro dev mt
  constructor
  · intro h
    obtain ⟨c, hc⟩ := Option.isSome_iff_exists.mp h
    obtain ⟨rfl, -, rfl⟩ := classOf_some _ _ _ _ hc
    cases c <;> simp [devCode, mtCode]
  · intro h
    simp only [List.mem_cons, Prod.mk.injEq, List.not_mem_nil, or_false] at h
    rcases h with ⟨rfl, rfl⟩ | ⟨rfl, rfl⟩ | ⟨rfl, rfl⟩ | ⟨rfl, rfl⟩ | ⟨rfl, rfl⟩ <;> rfl

/-! ### Frames of a class -/

/-- A frame that begins with a class's header and has the class's length is of that class (R203). -/
theorem classOfFrame_header (c : FrameClass) (q : Nibble) (rest : Bytes)
    (hlen : (headerBytes c q ++ rest).length = classLen c) : classOfFrame (headerBytes c q ++ rest) = some c := by
  have hmt : mtOf (headerBytes c q ++ rest) = mtCode c := hiNibble_packNibbles (mtCode c) q
  have hdev : devOf (headerBytes c q ++ rest) = devCode c := rfl
  rw [classOfFrame, hlen, hmt, hdev, classOf_own]

theorem classOfFrame_frame9 (c : FrameClass) (q : Nibble) (s : Serial) (e k : Byte) (hc : classLen c = 9) :
    classOfFrame (frame9 c q s e k) = some c := by
  rw [frame9, List.append_assoc]
  exact classOfFrame_header c q _ hc.symm

theorem classOfFrame_frame10 (q : Nibble) (s : Serial) (p : Pin) (k : Byte) :
    classOfFrame (frame10 q s p k) = some .pinreq :=
  classOfFrame_header .pinreq q (serialBytes s ++ pinBytes p ++ [k]) rfl

theorem classOfFrame_frame14 (q : Nibble) (s b : Serial) (r k : Byte) :
    classOfFrame (frame14 q s b r k) = some .pinresp :=
  classOfFrame_header .pinresp q (serialBytes s ++ serialBytes b ++ [r, k]) rfl

theorem seqOf_header (c : FrameClass) (q : Nibble) (rest : Bytes) : seqOf (headerBytes c q ++ rest) = q :=
  loNibble_packNibbles (mtCode c) q

theorem seqOf_frame9 (c : FrameClass) (q : Nibble) (s : Serial) (e k : Byte) : seqOf (frame9 c q s e k) = q :=
  seqOf_header c q (serialBytes s ++ [e, k])

theorem seqOf_frame10 (q : Nibble) (s : Serial) (p : Pin) (k : Byte) : seqOf (frame10 q s p k) = q :=
  seqOf_header .pinreq q (serialBytes s ++ pinBytes p ++ [k])

theorem seqOf_frame14 (q : Nibble) (s b : Serial) (r k : Byte) : seqOf (frame14 q s b r k) = q :=
  seqOf_header .pinresp q (serialBytes s ++ serialBytes b ++ [r, k])

theorem pinDigitsOf_frame10 (q : Nibble) (s : Serial) (p : Pin) (k : Byte) : pinDigitsOf (frame10 q s p k) = p := by
  obtain ⟨d0, d1, d2, d3⟩ := p
  show (⟨hiNibble (packNibbles d0 d1), loNibble (packNibbles d0 d1), hiNibble (packNibbles d2 d3),
    loNibble (packNibbles d2 d3)⟩ : Pin) = _
  simp only [hiNibble_packNibbles, loNibble_packNibbles]

/-! ### Decoding what was encoded -/

/-- Decoding the bytes of a 9-byte frame finds its class and every field (R95 to R97). -/
theorem decodeFrame_frame9 (q : Nibble) (s : Serial) (e k : Byte) :
    decodeFrame (frame9 .entry q s e k) = .entry q s e k
      ∧ decodeFrame (frame9 .motion q s e k) = .motion q s e k
      ∧ decodeFrame (frame9 .keychain q s e k) = .keychain q s e k := by
  refine ⟨?entry, ?motion, ?keychain⟩
  all_goals
    rw [decodeFrame, classOfFrame_frame9 _ _ _ _ _ rfl]
    dsimp only
    rw [seqOf_frame9]
    rfl

theorem decodeFrame_frame10 (q : Nibble) (s : Serial) (p : Pin) (k : Byte) :
    decodeFrame (frame10 q s p k) = .pinreq q s p k := by
  rw [decodeFrame, classOfFrame_frame10]
  dsimp only
  rw [seqOf_frame10, pinDigitsOf_frame10]
  rfl

theorem decodeFrame_frame14 (q : Nibble) (s b : Serial) (r k : Byte) :
    decodeFrame (frame14 q s b r k) = .pinresp q s b r k := by
  rw [decodeFrame, classOfFrame_frame14]
  dsimp only
  rw [seqOf_frame14]
  rfl

theorem decodeFrame_of_none {f : Bytes} (h : classOfFrame f = none) : decodeFrame f = .unknown f := by
  rw [decodeFrame, h]

/-- A pulse word decodes to the row its pulse classifies as. -/
theorem decode_pulseWord (w : Windows) (p : Pulse) : decode w (.pulse (pulseWord p)) = decodePulse w p := by
  rw [decode, pulseOfWord_pulseWord]

/-- Settles O1: the pulse rows by the class that makes them well formed, the frame rows field by field, the port rows
as they are. -/
theorem decodeEncodeRoundTrip : Obligations.DecodeEncodeRoundTrip := by
  intro w i hwf
  cases i with
  | zero p | one p | preamble d | invalid p =>
    have hsym := of_decide_eq_true hwf
    rw [encode, decode_pulseWord, decodePulse, hsym]
  | entry q s e k =>
    obtain ⟨hentry, -, -⟩ := decodeFrame_frame9 q s e k
    exact hentry
  | motion q s e k =>
    obtain ⟨-, hmotion, -⟩ := decodeFrame_frame9 q s e k
    exact hmotion
  | keychain q s e k =>
    obtain ⟨-, -, hkeychain⟩ := decodeFrame_frame9 q s e k
    exact hkeychain
  | pinreq q s p k => exact decodeFrame_frame10 q s p k
  | pinresp q s b r k => exact decodeFrame_frame14 q s b r k
  | unknown f => exact decodeFrame_of_none (of_decide_eq_true hwf)
  | rxPulse p => exact congrArg Instr.rxPulse (pulseOfWord_pulseWord p)
  | reset c => rfl
  | rxClear => rfl
  | txMsg r => rfl
  | status => rfl

/-! ### Encoding what was decoded -/

/-- No bit of a pulse word is dropped (R113). -/
theorem pulseWord_pulseOfWord (x : BitVec 17) : pulseWord (pulseOfWord x) = x := by
  have hlevel : levelBit (if x.getLsbD 16 then Level.high else .low) = x.extractLsb' 16 1 := by
    cases hbit : x.getLsbD 16 <;> ext i hi <;> obtain rfl : i = 0 := by omega
    all_goals simp [levelBit, hbit, ← BitVec.getLsbD_eq_getElem]
  rw [pulseWord, pulseOfWord, hlevel]
  exact BitVec.extractLsb'_append_extractLsb'_eq_extractLsb' (by rfl) |>.trans (BitVec.extractLsb'_eq_self)

/-- A Preamble symbol is a High pulse (R133). -/
theorem level_of_classify_preamble {w : Windows} {p : Pulse} (h : classify w p = .preamble) : p.level = .high := by
  unfold classify at h
  split at h
  · cases h
  · split at h
    · cases h
    · split at h
      · rename_i hwin
        exact hwin.1
      · cases h

/-- The row of a pulse is presented as the pulse's own word. -/
theorem encode_decodePulse (w : Windows) (p : Pulse) : encode (decodePulse w p) = .pulse (pulseWord p) := by
  unfold decodePulse
  split
  case h_3 hsym =>
    obtain ⟨l, d⟩ := p
    obtain rfl : l = .high := level_of_classify_preamble hsym
    rfl
  all_goals rfl

theorem wf_decodePulse (w : Windows) (p : Pulse) : (decodePulse w p).wf w = true := by
  unfold decodePulse
  split
  case h_3 hsym =>
    obtain ⟨l, d⟩ := p
    obtain rfl : l = .high := level_of_classify_preamble hsym
    exact decide_eq_true hsym
  all_goals exact decide_eq_true ‹_›

/-- What a frame's class says of its bytes. -/
theorem classOfFrame_some {f : Bytes} {c : FrameClass} (h : classOfFrame f = some c) :
    devOf f = devCode c ∧ f.length = classLen c ∧ mtOf f = mtCode c :=
  classOf_some _ _ _ _ h

/-- The first two bytes of a frame of a class are the header of its class and sequence number (R92). -/
theorem headerBytes_seqOf {c : FrameClass} {a b : Byte} {rest : Bytes} (hdev : devOf (a :: b :: rest) = devCode c)
    (hmt : mtOf (a :: b :: rest) = mtCode c) : headerBytes c (seqOf (a :: b :: rest)) = [a, b] := by
  have hb : packNibbles (mtCode c) (loNibble b) = b := hmt ▸ packNibbles_nibbles b
  exact congrArg₂ (fun x y => [x, y]) hdev.symm hb

/-- A frame of a 9-byte class is its header, serial, event and checksum bytes. -/
theorem frame9_fields {f : Bytes} {c : FrameClass} (h : classOfFrame f = some c) (hc : classLen c = 9) :
    frame9 c (seqOf f) (serialOf f) (eventOf f) (chkOf f) = f := by
  obtain ⟨hdev, hlen, hmt⟩ := classOfFrame_some h
  rw [hc] at hlen
  match f, hlen with
  | [_, _, _, _, _, _, _, _, _], _ =>
    rw [frame9, headerBytes_seqOf hdev hmt]
    rfl

theorem frame10_fields {f : Bytes} (h : classOfFrame f = some .pinreq) :
    frame10 (seqOf f) (serialOf f) (pinDigitsOf f) (chkOf f) = f := by
  obtain ⟨hdev, hlen, hmt⟩ := classOfFrame_some h
  match f, hlen with
  | [_, _, _, _, _, _, _, a, b, _], _ =>
    have hpin : pinBytes ⟨hiNibble a, loNibble a, hiNibble b, loNibble b⟩ = [a, b] :=
      congrArg₂ (fun x y => [x, y]) (packNibbles_nibbles a) (packNibbles_nibbles b)
    rw [frame10, headerBytes_seqOf hdev hmt]
    exact congrArg (fun x => _ ++ x ++ _) hpin

theorem frame14_fields {f : Bytes} (h : classOfFrame f = some .pinresp) :
    frame14 (seqOf f) (serialOf f) (baseSerialOf f) (responseOf f) (chkOf f) = f := by
  obtain ⟨hdev, hlen, hmt⟩ := classOfFrame_some h
  match f, hlen with
  | [_, _, _, _, _, _, _, _, _, _, _, _, _, _], _ =>
    rw [frame14, headerBytes_seqOf hdev hmt]
    rfl

/-- The row of a frame is presented as exactly the frame's bytes (R113). -/
theorem encode_decodeFrame (f : Bytes) : encode (decodeFrame f) = .frame f := by
  unfold decodeFrame
  split <;> rename_i hclass
  · exact congrArg Input.frame (frame9_fields hclass rfl)
  · exact congrArg Input.frame (frame9_fields hclass rfl)
  · exact congrArg Input.frame (frame9_fields hclass rfl)
  · exact congrArg Input.frame (frame10_fields hclass)
  · exact congrArg Input.frame (frame14_fields hclass)
  · rfl

theorem wf_decodeFrame (w : Windows) (f : Bytes) : (decodeFrame f).wf w = true := by
  unfold decodeFrame
  split
  case h_6 hclass => exact decide_eq_true hclass
  all_goals rfl

/-- Settles O2. -/
theorem encodeOfDecodedInput : Obligations.EncodeOfDecodedInput := by
  intro w x
  cases x with
  | pulse word =>
    refine ⟨?_, wf_decodePulse w _⟩
    rw [decode, encode_decodePulse, pulseWord_pulseOfWord]
  | frame f => exact ⟨encode_decodeFrame f, wf_decodeFrame w f⟩
  | port op =>
    cases op with
    | rxPulse word => exact ⟨congrArg (Input.port ∘ Transaction.rxPulse) (pulseWord_pulseOfWord word), rfl⟩
    | reset c => exact ⟨rfl, rfl⟩
    | rxClear => exact ⟨rfl, rfl⟩
    | txMsg r => exact ⟨rfl, rfl⟩
    | status => exact ⟨rfl, rfl⟩

/-- Settles O3. -/
theorem specWordsDecode : Obligations.SpecWordsDecode := by
  unfold Obligations.SpecWordsDecode
  decide

end Sys2Proof.Proofs

/-!
The Message Codec and the frame rows (`42_message_codec.md`): the round trips between messages and frames (R222, R229,
R230), the domains of messages (R201), and the result of every frame row (R205 to R211).
-/

namespace Sys2Proof.Proofs

open Sys2Proof.Machine

/-! ### Frames with their checksum -/

@[simp] theorem bodyOf_append_singleton (b : Bytes) (k : Byte) : bodyOf (b ++ [k]) = b := List.dropLast_concat

@[simp] theorem chkOf_append_singleton (b : Bytes) (k : Byte) : chkOf (b ++ [k]) = k := by
  simp [chkOf, byteAt]

/-- A frame that is not empty is its body and its checksum byte (R100). -/
theorem bodyOf_append_chkOf {f : Bytes} (h : f ≠ []) : bodyOf f ++ [chkOf f] = f := by
  obtain ⟨b, k, rfl⟩ := List.eq_nil_or_concat' f |>.resolve_left h
  rw [bodyOf_append_singleton, chkOf_append_singleton]

/-- The checksum test on a body with some last byte (R205). -/
theorem checked_append_singleton (chk : Bytes → Byte) (b : Bytes) (k : Byte) (r : RxResult) :
    checked chk (b ++ [k]) r = if chk b ≠ k then .fail (.checksumMismatch (b ++ [k])) else r := by
  rw [checked, bodyOf_append_singleton, chkOf_append_singleton, ite_not]

/-- A frame of legal length goes through the checksum test to `dispatch` (R205). -/
theorem parse_of_length {chk : Bytes → Byte} {f : Bytes} (hlo : 2 ≤ f.length) (hhi : f.length ≤ 14) :
    parse chk f = checked chk f (dispatch f) := by
  have hlen : ¬ lengthOut f = true := by
    rw [lengthOut_iff]
    omega
  rw [parse, if_neg hlen]

/-- What a frame that parses to a message has passed: the length test, the checksum test, `dispatch`. -/
theorem parse_eq_ok {chk : Bytes → Byte} {f : Bytes} {m : Message} (h : parse chk f = .ok m) :
    2 ≤ f.length ∧ chk (bodyOf f) = chkOf f ∧ dispatch f = .ok m := by
  unfold parse at h
  split at h
  · cases h
  · rename_i hlen
    rw [lengthOut_iff] at hlen
    rcases checked_cases chk f (dispatch f) with ⟨hchk, hd⟩ | ⟨-, hd⟩ <;> rw [hd] at h
    · exact ⟨by omega, hchk, h⟩
    · cases h

/-! ### The code tables -/

theorem entryEventOf_eq_some_iff (b : Byte) (e : EntryEvent) : entryEventOf b = some e ↔ entryCode e = b := by
  unfold entryEventOf
  constructor
  · intro h
    split_ifs at h with h1 h2 <;> cases h <;> exact Eq.symm ‹_›
  · rintro rfl
    cases e <;> rfl

theorem motionEventOf_eq_some_iff (b : Byte) (e : MotionEvent) : motionEventOf b = some e ↔ motionCode e = b := by
  unfold motionEventOf
  constructor
  · intro h
    split_ifs at h with h1 h2 <;> cases h <;> exact Eq.symm ‹_›
  · rintro rfl
    cases e <;> rfl

theorem keychainEventOf_eq_some_iff (b : Byte) (e : KeychainEvent) :
    keychainEventOf b = some e ↔ keychainCode e = b := by
  unfold keychainEventOf
  constructor
  · intro h
    split_ifs at h with h1 h2 h3 <;> cases h <;> exact Eq.symm ‹_›
  · rintro rfl
    cases e <;> rfl

theorem pinResponseOf_eq_some_iff (b : Byte) (r : PinResponse) : pinResponseOf b = some r ↔ responseCode r = b := by
  unfold pinResponseOf
  constructor
  · intro h
    split_ifs at h with h1 h2 <;> cases h <;> exact Eq.symm ‹_›
  · rintro rfl
    cases r <;> rfl

/-! ### The unpackers -/

/-- The serial check is the same bound on each of the five bytes (R212). -/
theorem serialOk_eq_all (s : Serial) : serialOk s = (serialBytes s).all (fun x => decide (x.toNat < 128)) := by
  simp only [serialOk, serialBytes, List.all_cons, List.all_nil, Bool.and_true, Bool.and_assoc]

theorem pinOk_eq_false_iff (p : Pin) :
    pinOk p = false ↔ 9 < p.d0.toNat ∨ 9 < p.d1.toNat ∨ 9 < p.d2.toNat ∨ 9 < p.d3.toNat := by
  simp only [pinOk, Bool.and_eq_false_iff, decide_eq_false_iff_not, Nat.not_le, or_assoc]

/-- What the three sensor unpackers share: the serial, then the event through the class's code table (R207 to R209).
`unpackEntry_eq`, `unpackMotion_eq` and `unpackKeychain_eq` tie it to the model. -/
def unpackSensor {E : Type} (event : Byte → Option E) (mk : Serial → Nibble → E → Message) (f : Bytes) : RxResult :=
  if serialOk (serialOf f) = false then .fail (.invalidField .serial f)
  else (event (eventOf f)).elim (.fail (.invalidField .event f)) (fun e => .ok (mk (serialOf f) (seqOf f) e))

theorem unpackEntry_eq (f : Bytes) : unpackEntry f = unpackSensor entryEventOf .entrySensor f := by
  unfold unpackEntry unpackSensor
  cases serialOk (serialOf f) <;> cases entryEventOf (eventOf f) <;> rfl

theorem unpackMotion_eq (f : Bytes) : unpackMotion f = unpackSensor motionEventOf .motionSensor f := by
  unfold unpackMotion unpackSensor
  cases serialOk (serialOf f) <;> cases motionEventOf (eventOf f) <;> rfl

theorem unpackKeychain_eq (f : Bytes) : unpackKeychain f = unpackSensor keychainEventOf .keychainRemote f := by
  unfold unpackKeychain unpackSensor
  cases serialOk (serialOf f) <;> cases keychainEventOf (eventOf f) <;> rfl

theorem unpackSensor_eq_ok_iff {E : Type} {event : Byte → Option E} {mk : Serial → Nibble → E → Message} {f : Bytes}
    {m : Message} :
    unpackSensor event mk f = .ok m
      ↔ serialOk (serialOf f) = true ∧ ∃ e, event (eventOf f) = some e ∧ mk (serialOf f) (seqOf f) e = m := by
  unfold unpackSensor
  cases serialOk (serialOf f) <;> cases event (eventOf f) <;> simp

theorem unpackPinreq_eq_ok_iff {f : Bytes} {m : Message} :
    unpackPinreq f = .ok m ↔ serialOk (serialOf f) = true ∧ pinOk (pinDigitsOf f) = true
      ∧ Message.pinRequest (serialOf f) (seqOf f) (pinDigitsOf f) = m := by
  unfold unpackPinreq
  cases serialOk (serialOf f) <;> cases pinOk (pinDigitsOf f) <;> simp

theorem unpackPinresp_eq_ok_iff {f : Bytes} {m : Message} :
    unpackPinresp f = .ok m ↔ serialOk (serialOf f) = true ∧ serialOk (baseSerialOf f) = true
      ∧ ∃ r, pinResponseOf (responseOf f) = some r
        ∧ Message.pinResponse (serialOf f) (seqOf f) (baseSerialOf f) r = m := by
  unfold unpackPinresp
  cases serialOk (serialOf f) <;> cases serialOk (baseSerialOf f) <;> cases pinResponseOf (responseOf f) <;> simp

/-- `dispatch` takes the unpacker of the frame's class (R203). -/
theorem dispatch_of_entry {f : Bytes} (h : classOfFrame f = some .entry) :
    dispatch f = unpackSensor entryEventOf .entrySensor f := by
  rw [dispatch, h]
  exact unpackEntry_eq f

theorem dispatch_of_motion {f : Bytes} (h : classOfFrame f = some .motion) :
    dispatch f = unpackSensor motionEventOf .motionSensor f := by
  rw [dispatch, h]
  exact unpackMotion_eq f

theorem dispatch_of_keychain {f : Bytes} (h : classOfFrame f = some .keychain) :
    dispatch f = unpackSensor keychainEventOf .keychainRemote f := by
  rw [dispatch, h]
  exact unpackKeychain_eq f

theorem dispatch_of_pinreq {f : Bytes} (h : classOfFrame f = some .pinreq) : dispatch f = unpackPinreq f := by
  rw [dispatch, h]

theorem dispatch_of_pinresp {f : Bytes} (h : classOfFrame f = some .pinresp) : dispatch f = unpackPinresp f := by
  rw [dispatch, h]

theorem dispatch_of_none {f : Bytes} (h : classOfFrame f = none) : dispatch f = .fail (.unrecognizedFormat f) := by
  rw [dispatch, h]

/-! ### From a message to its frame and back -/

section
variable {E : Type} {event : Byte → Option E} {mk : Serial → Nibble → E → Message} {c : FrameClass}

/-- A sensor frame with a legal serial and an event code of its table gives its message. -/
theorem unpackSensor_frame9 {q : Nibble} {s : Serial} {b k : Byte} {e : E} (hs : serialOk s = true)
    (he : event b = some e) : unpackSensor event mk (frame9 c q s b k) = .ok (mk s q e) := by
  rw [unpackSensor_eq_ok_iff, seqOf_frame9]
  exact ⟨hs, e, he, rfl⟩

/-- The body of the message that a sensor frame gives is the frame's, if the code table undoes the event table. -/
theorem body_of_unpackSensor {code : E → Byte} {f : Bytes} {m : Message}
    (hbody : ∀ s q e, body (mk s q e) = bodyHead c q s ++ [code e]) (hevent : ∀ b e, event b = some e → code e = b)
    (hclass : classOfFrame f = some c) (hc : classLen c = 9) (h : unpackSensor event mk f = .ok m) :
    body m = bodyOf f := by
  obtain ⟨-, e, he, rfl⟩ := unpackSensor_eq_ok_iff.mp h
  rw [hbody, hevent _ e he]
  exact congrArg bodyOf (frame9_fields hclass hc)

end

/-- `dispatch` undoes the packers, whatever the checksum byte (R203, R207 to R211, R224 to R228). -/
theorem dispatch_body_append {m : Message} (k : Byte) (h : messageOk m = true) : dispatch (body m ++ [k]) = .ok m := by
  cases m with
  | entrySensor s q e =>
    exact (dispatch_of_entry (classOfFrame_frame9 _ q s _ k rfl)).trans
      (unpackSensor_frame9 h ((entryEventOf_eq_some_iff _ e).mpr rfl))
  | motionSensor s q e =>
    exact (dispatch_of_motion (classOfFrame_frame9 _ q s _ k rfl)).trans
      (unpackSensor_frame9 h ((motionEventOf_eq_some_iff _ e).mpr rfl))
  | keychainRemote s q e =>
    exact (dispatch_of_keychain (classOfFrame_frame9 _ q s _ k rfl)).trans
      (unpackSensor_frame9 h ((keychainEventOf_eq_some_iff _ e).mpr rfl))
  | pinRequest s q p =>
    obtain ⟨hs, hp⟩ := Bool.and_eq_true_iff.mp h
    refine (dispatch_of_pinreq (classOfFrame_frame10 q s p k)).trans ?_
    rw [unpackPinreq_eq_ok_iff, seqOf_frame10, pinDigitsOf_frame10]
    exact ⟨hs, hp, rfl⟩
  | pinResponse ks q bs r =>
    obtain ⟨hks, hbs⟩ := Bool.and_eq_true_iff.mp h
    refine (dispatch_of_pinresp (classOfFrame_frame14 q ks bs (responseCode r) k)).trans ?_
    rw [unpackPinresp_eq_ok_iff, seqOf_frame14]
    exact ⟨hks, hbs, r, (pinResponseOf_eq_some_iff _ r).mpr rfl, rfl⟩

/-- The class of a message's frame. -/
def messageClass (m : Message) : FrameClass :=
  match m with
  | .entrySensor _ _ _ => .entry
  | .motionSensor _ _ _ => .motion
  | .keychainRemote _ _ _ => .keychain
  | .pinRequest _ _ _ => .pinreq
  | .pinResponse _ _ _ _ => .pinresp

theorem length_body (m : Message) : (body m).length + 1 = classLen (messageClass m) := by
  cases m <;> rfl

/-- Settles O45: a body begins with its class's header, and the length table agrees with the class's length. -/
theorem bodyAnnouncesItsLength : Obligations.BodyAnnouncesItsLength := by
  intro m
  have hdev : byteAt (body m) 0 = devCode (messageClass m) := by cases m <;> rfl
  have hmt : hiNibble (byteAt (body m) 1) = mtCode (messageClass m) := by
    cases m <;> exact hiNibble_packNibbles _ _
  rw [hdev, hmt, frameLen_own, length_body]

theorem length_serialize (chk : Bytes → Byte) (m : Message) :
    (serialize chk m).length = classLen (messageClass m) := by
  rw [serialize, frameOf, List.length_append, List.length_singleton, length_body]

theorem classLen_bounds (c : FrameClass) : 9 ≤ classLen c ∧ classLen c ≤ 14 := by
  cases c <;> decide

/-- Settles O46: a serialized message has a legal length and its own checksum, and `dispatch` undoes the packers. -/
theorem parseOfSerialize : Obligations.ParseOfSerialize := by
  intro chk m hok
  obtain ⟨hlo, hhi⟩ := classLen_bounds (messageClass m)
  rw [parse_of_length (by rw [length_serialize]; omega) (by rw [length_serialize]; omega), serialize, frameOf,
    checked_append_singleton, if_neg (not_not_intro rfl), dispatch_body_append _ hok]

/-- The packers undo `dispatch`: the bytes before the checksum are the message's body (R230). -/
theorem body_of_dispatch {f : Bytes} {m : Message} (h : dispatch f = .ok m) : body m = bodyOf f := by
  cases hclass : classOfFrame f with
  | none =>
    rw [dispatch_of_none hclass] at h
    cases h
  | some c =>
    cases c with
    | entry =>
      exact body_of_unpackSensor (fun _ _ _ => rfl) (fun b e => (entryEventOf_eq_some_iff b e).mp) hclass rfl
        ((dispatch_of_entry hclass).symm.trans h)
    | motion =>
      exact body_of_unpackSensor (fun _ _ _ => rfl) (fun b e => (motionEventOf_eq_some_iff b e).mp) hclass rfl
        ((dispatch_of_motion hclass).symm.trans h)
    | keychain =>
      exact body_of_unpackSensor (fun _ _ _ => rfl) (fun b e => (keychainEventOf_eq_some_iff b e).mp) hclass rfl
        ((dispatch_of_keychain hclass).symm.trans h)
    | pinreq =>
      rw [dispatch_of_pinreq hclass, unpackPinreq_eq_ok_iff] at h
      obtain ⟨-, -, rfl⟩ := h
      exact congrArg bodyOf (frame10_fields hclass)
    | pinresp =>
      rw [dispatch_of_pinresp hclass, unpackPinresp_eq_ok_iff] at h
      obtain ⟨-, -, r, hr, rfl⟩ := h
      rw [body, (pinResponseOf_eq_some_iff _ r).mp hr]
      exact congrArg bodyOf (frame14_fields hclass)

/-- Settles O47: the body comes back from the message, and the checksum byte is the one that was tested. -/
theorem serializeOfParse : Obligations.SerializeOfParse := by
  intro chk f m h
  obtain ⟨hlen, hchk, hd⟩ := parse_eq_ok h
  have hne : f ≠ [] := List.ne_nil_of_length_pos (by omega)
  calc serialize chk m = bodyOf f ++ [chk (bodyOf f)] := by rw [serialize, frameOf, body_of_dispatch hd]
    _ = bodyOf f ++ [chkOf f] := by rw [hchk]
    _ = f := bodyOf_append_chkOf hne

/-! ### The domains of messages -/

/-- Digits and upper-case letters are 7-bit codes (R212, R219). -/
theorem serialOk_of_serialText {t : Bytes} (h : SerialText t) : serialOk (serialAt t 0) = true := by
  obtain ⟨hlen, hcodes⟩ := h
  match t, hlen with
  | [a, b, c, d, e], _ =>
    rw [serialOk_eq_all, List.all_eq_true]
    intro x hx
    have := hcodes x hx
    rw [decide_eq_true_eq]
    omega

theorem toNat_digitOf_le {b : Byte} (h : 0x30 ≤ b.toNat ∧ b.toNat ≤ 0x39) : (digitOf b).toNat ≤ 9 := by
  rw [digitOf, BitVec.toNat_ofNat]
  omega

theorem pinOk_of_pinText {t : Bytes} (h : PinText t) : pinOk (pinOfText t) = true := by
  obtain ⟨hlen, hcodes⟩ := h
  match t, hlen with
  | [a, b, c, d], _ =>
    have hdigit (x : Byte) (hx : x ∈ [a, b, c, d]) : (digitOf x).toNat ≤ 9 := toNat_digitOf_le (hcodes x hx)
    simp only [pinOk, Bool.and_eq_true, decide_eq_true_eq]
    exact ⟨⟨⟨hdigit a (by simp), hdigit b (by simp)⟩, hdigit c (by simp)⟩, hdigit d (by simp)⟩

/-- What an accepted request has passed: the serial and sequence checks (R213). -/
theorem withSerialSeq_eq_ok {t : Bytes} {n : Nat} {k : Serial → Nibble → Except Failure Message} {m : Message}
    (h : withSerialSeq t n k = .ok m) :
    SerialText t ∧ n ≤ 15 ∧ k (serialAt t 0) (BitVec.ofNat 4 n) = .ok m := by
  by_cases ht : SerialText t
  · rcases Nat.lt_or_ge 15 n with hn | hn
    · rw [withSerialSeq_of_gt k ht hn] at h
      cases h
    · rw [withSerialSeq_of_ok k ht hn] at h
      exact ⟨ht, hn, h⟩
  · rw [withSerialSeq_of_not_serialText k ht] at h
    cases h

theorem constructPinRequest_eq_ok {t p : Bytes} {n : Nat} {m : Message} (h : constructPinRequest t n p = .ok m) :
    SerialText t ∧ n ≤ 15 ∧ PinText p ∧ m = .pinRequest (serialAt t 0) (BitVec.ofNat 4 n) (pinOfText p) := by
  obtain ⟨ht, hn, -⟩ := withSerialSeq_eq_ok h
  by_cases hp : PinText p
  · rw [constructPinRequest_of_ok ht hn hp] at h
    exact ⟨ht, hn, hp, (Except.ok.inj h).symm⟩
  · rw [constructPinRequest_of_not_pinText ht hn hp] at h
    cases h

theorem constructPinResponse_eq_ok {t b : Bytes} {n : Nat} {r : PinResponse} {m : Message}
    (h : constructPinResponse t n b r = .ok m) :
    SerialText t ∧ n ≤ 15 ∧ SerialText b
      ∧ m = .pinResponse (serialAt t 0) (BitVec.ofNat 4 n) (serialAt b 0) r := by
  obtain ⟨ht, hn, -⟩ := withSerialSeq_eq_ok h
  by_cases hb : SerialText b
  · rw [constructPinResponse_of_ok r ht hn hb] at h
    exact ⟨ht, hn, hb, (Except.ok.inj h).symm⟩
  · rw [constructPinResponse_of_not_serialText r ht hn hb] at h
    cases h

theorem messageOk_of_construct {r : TxReq} {m : Message} (h : construct r = .ok m) : messageOk m = true := by
  cases r with
  | entrySensor t n e | motionSensor t n e | keychainRemote t n e =>
    obtain ⟨ht, -, hm⟩ := withSerialSeq_eq_ok h
    cases hm
    exact serialOk_of_serialText ht
  | pinRequest t n p =>
    obtain ⟨ht, -, hp, rfl⟩ := constructPinRequest_eq_ok h
    exact Bool.and_eq_true_iff.mpr ⟨serialOk_of_serialText ht, pinOk_of_pinText hp⟩
  | pinResponse t n b x =>
    obtain ⟨ht, -, hb, rfl⟩ := constructPinResponse_eq_ok h
    exact Bool.and_eq_true_iff.mpr ⟨serialOk_of_serialText ht, serialOk_of_serialText hb⟩

theorem messageOk_of_dispatch {f : Bytes} {m : Message} (h : dispatch f = .ok m) : messageOk m = true := by
  rcases dispatch_cases f with hd | ⟨fl, hd⟩ | ⟨m', hd, hok⟩ <;> rw [hd] at h <;> cases h
  exact hok

/-- Settles O29. -/
theorem messagesAreInTheirDomains : Obligations.MessagesAreInTheirDomains := by
  refine ⟨fun r m h => messageOk_of_construct h, fun chk f m h => ?parsed⟩
  case parsed =>
    obtain ⟨-, -, hd⟩ := parse_eq_ok h
    exact messageOk_of_dispatch hd

/-! ### The frame rows -/

/-- A class row on the bytes of a frame of its class is `parse` of them (R203, R205). -/
theorem parseAs_of_class {f g : Bytes} {c : FrameClass} {unpack : Bytes → RxResult} (s : State)
    (hclass : classOfFrame f = some c) (hd : dispatch f = unpack f) (hg : g = f) :
    parseAs unpack g s = .next (s.emitRx (parse (checksumOf s.cfg.checksum) f)) := by
  obtain ⟨-, hlen, -⟩ := classOfFrame_some hclass
  obtain ⟨hlo, hhi⟩ := classLen_bounds c
  rw [hg, parseAs, parse_of_length (by omega) (by omega), hd]

theorem exec_unknown (f : Bytes) (s : State) :
    exec (.unknown f) s = .next (s.emitRx (parse (checksumOf s.cfg.checksum) f)) := rfl

/-- Settles O21: the fields that a class row takes from the bytes are the bytes again. -/
theorem frameRowsAreParse : Obligations.FrameRowsAreParse := by
  intro s f
  unfold decodeFrame
  split <;> rename_i hclass
  · exact parseAs_of_class s hclass (by rw [dispatch, hclass]) (frame9_fields hclass rfl)
  · exact parseAs_of_class s hclass (by rw [dispatch, hclass]) (frame9_fields hclass rfl)
  · exact parseAs_of_class s hclass (by rw [dispatch, hclass]) (frame9_fields hclass rfl)
  · exact parseAs_of_class s hclass (dispatch_of_pinreq hclass) (frame10_fields hclass)
  · exact parseAs_of_class s hclass (dispatch_of_pinresp hclass) (frame14_fields hclass)
  · exact exec_unknown f s

/-- A class row is `parse` of the bytes that the encoder presents for it. -/
theorem exec_of_encode_frame {i : Instr} {f : Bytes} (s : State) (hwf : i.wf s.win = true)
    (henc : encode i = .frame f) : exec i s = .next (s.emitRx (parse (checksumOf s.cfg.checksum) f)) := by
  have hi : decodeFrame f = i := by
    have := decodeEncodeRoundTrip s.win i hwf
    rwa [henc] at this
  rw [← hi]
  exact frameRowsAreParse s f

/-- Settles O20: without a class `dispatch` has one answer, so only length and checksum decide. -/
theorem unknownFrameResult : Obligations.UnknownFrameResult := by
  intro s f hclass
  rw [exec_unknown, parse, dispatch_of_none hclass]
  simp only [lengthOut_iff]
  rfl

/-- A sensor row: checksum, serial, event (R204, R205, R207 to R209). -/
theorem parseAs_unpackSensor {E : Type} {unpack : Bytes → RxResult} {event : Byte → Option E}
    {mk : Serial → Nibble → E → Message} (hunpack : ∀ f, unpack f = unpackSensor event mk f) (c : FrameClass)
    (q : Nibble) (n : Serial) (e k : Byte) (s : State) :
    parseAs unpack (frame9 c q n e k) s = .next (s.emitRx (
      if checksumOf s.cfg.checksum (bodyHead c q n ++ [e]) ≠ k then
        .fail (.checksumMismatch (bodyHead c q n ++ [e] ++ [k]))
      else if (serialBytes n).all (fun x => decide (x.toNat < 128)) = false then
        .fail (.invalidField .serial (bodyHead c q n ++ [e] ++ [k]))
      else (event e).elim (.fail (.invalidField .event (bodyHead c q n ++ [e] ++ [k])))
        (fun v => .ok (mk n q v)))) := by
  have hframe : frame9 c q n e k = bodyHead c q n ++ [e] ++ [k] := rfl
  rw [parseAs, hunpack, unpackSensor, seqOf_frame9, hframe, checked_append_singleton]
  show Host.Outcome.next (s.emitRx (ite _ _ (ite (serialOk n = false) _ _))) = _
  rw [serialOk_eq_all]
  rfl

theorem elim_entryEventOf (b : Byte) (x : RxResult) (g : EntryEvent → RxResult) :
    (entryEventOf b).elim x g = if b = 0x01 then g .opened else if b = 0x02 then g .closed else x := by
  unfold entryEventOf
  split_ifs <;> rfl

theorem elim_motionEventOf (b : Byte) (x : RxResult) (g : MotionEvent → RxResult) :
    (motionEventOf b).elim x g = if b = 0x00 then g .heartbeat else if b = 0x01 then g .motion else x := by
  unfold motionEventOf
  split_ifs <;> rfl

theorem elim_keychainEventOf (b : Byte) (x : RxResult) (g : KeychainEvent → RxResult) :
    (keychainEventOf b).elim x g
      = if b = 0x01 then g .panic else if b = 0x02 then g .away else if b = 0x03 then g .off else x := by
  unfold keychainEventOf
  split_ifs <;> rfl

/-- Settles O18: the three rows are one shape, each with its own code table. -/
theorem sensorFrameResults : Obligations.SensorFrameResults := by
  intro s q c e k out sb ascii chk be bm bk
  refine ⟨?entry, ?motion, ?keychain⟩
  case entry =>
    refine (parseAs_unpackSensor unpackEntry_eq .entry q c e k s).trans ?_
    rw [elim_entryEventOf]
    rfl
  case motion =>
    refine (parseAs_unpackSensor unpackMotion_eq .motion q c e k s).trans ?_
    rw [elim_motionEventOf]
    rfl
  case keychain =>
    refine (parseAs_unpackSensor unpackKeychain_eq .keychain q c e k s).trans ?_
    rw [elim_keychainEventOf]
    rfl

/-- `unpack_pinreq` with the failures first, as R210 writes it. -/
theorem unpackPinreq_eq (f : Bytes) :
    unpackPinreq f =
      if serialOk (serialOf f) = false then .fail (.invalidField .serial f)
      else if pinOk (pinDigitsOf f) = false then .fail (.invalidField .pin f)
      else .ok (.pinRequest (serialOf f) (seqOf f) (pinDigitsOf f)) := by
  unfold unpackPinreq
  cases serialOk (serialOf f) <;> cases pinOk (pinDigitsOf f) <;> rfl

/-- `unpack_pinresp` with the failures first, as R211 writes it. -/
theorem unpackPinresp_eq (f : Bytes) :
    unpackPinresp f =
      if serialOk (serialOf f) = false then .fail (.invalidField .serial f)
      else if serialOk (baseSerialOf f) = false then .fail (.invalidField .baseSerial f)
      else if responseOf f = 0x01 then .ok (.pinResponse (serialOf f) (seqOf f) (baseSerialOf f) .valid)
      else if responseOf f = 0x02 then .ok (.pinResponse (serialOf f) (seqOf f) (baseSerialOf f) .invalid)
      else .fail (.invalidField .response f) := by
  unfold unpackPinresp
  cases serialOk (serialOf f)
  case false => rfl
  case true =>
    cases serialOk (baseSerialOf f)
    case false => rfl
    case true =>
      simp only [reduceCtorEq, if_true, if_false]
      unfold pinResponseOf
      split_ifs <;> rfl

/-- Settles O19: fields by ascending offset after the checksum. -/
theorem pinFrameResults : Obligations.PinFrameResults := by
  intro s q c b d r k out sb bb ascii chk fq fr
  have hsb : serialOk c = ascii sb := serialOk_eq_all c
  have hbb : serialOk b = ascii bb := serialOk_eq_all b
  refine ⟨?request, ?response⟩
  case request =>
    have hframe : frame10 q c d k = fq ++ [k] := rfl
    show Host.Outcome.next (s.emitRx (checked chk (frame10 q c d k) _)) = _
    rw [unpackPinreq_eq, seqOf_frame10, pinDigitsOf_frame10, hframe, checked_append_singleton]
    simp only [← pinOk_eq_false_iff, ← hsb]
    rfl
  case response =>
    have hframe : frame14 q c b r k = fr ++ [k] := rfl
    show Host.Outcome.next (s.emitRx (checked chk (frame14 q c b r k) _)) = _
    rw [unpackPinresp_eq, seqOf_frame14, hframe, checked_append_singleton]
    simp only [← hsb, ← hbb]
    rfl

end Sys2Proof.Proofs

/-!
The configuration and the Pulse Codec (`10_state.md` R41, `40_pulse_codec.md`): the four clauses of `cfg_ok`, the window
of each symbol, the round trip of pulses and the shape of an encoded frame (R137, R138).
-/

namespace Sys2Proof.Proofs

open Sys2Proof.Machine

/-! ### `cfg_ok` -/

theorem inWindow_iff (lo hi d : Nat) : inWindow lo hi d = true ↔ lo ≤ d ∧ d < hi := by
  simp only [inWindow, Bool.and_eq_true, decide_eq_true_eq]

/-- The test on the bounds says what it is for: no duration lies in both windows (R41 (c)). The larger lower bound is
the duration to look at. -/
theorem disjointWindows_iff (lo hi lo' hi' : Nat) :
    disjointWindows lo hi lo' hi' = true ↔ ∀ d, ¬ ((lo ≤ d ∧ d < hi) ∧ lo' ≤ d ∧ d < hi') := by
  rw [disjointWindows, decide_eq_true_eq]
  constructor
  · intro h d
    omega
  · intro h
    have := h (max lo lo')
    omega

/-- Settles O7. -/
theorem cfgOkIsTheFourClauses : Obligations.CfgOkIsTheFourClauses := by
  intro c
  simp only [cfgOk, durationInRange, pctInRange, Bool.and_eq_true, decide_eq_true_eq, disjointWindows_iff,
    forall_and, and_assoc]
  rfl

/-! ### The window of each symbol -/

/-- Under `cfg_ok` a duration lies in one window at most. -/
theorem windows_disjoint {c : Cfg} (h : cfgOk c = true) (d : Nat) :
    ¬ (inWindow (windowsOf c).zLo (windowsOf c).zHi d = true ∧ inWindow (windowsOf c).oLo (windowsOf c).oHi d = true)
      ∧ ¬ (inWindow (windowsOf c).zLo (windowsOf c).zHi d = true
        ∧ inWindow (windowsOf c).pLo (windowsOf c).pHi d = true)
      ∧ ¬ (inWindow (windowsOf c).oLo (windowsOf c).oHi d = true
        ∧ inWindow (windowsOf c).pLo (windowsOf c).pHi d = true) := by
  obtain ⟨-, -, hdisj, -⟩ := (cfgOkIsTheFourClauses c).mp h
  simpa only [inWindow_iff] using hdisj d

/-- Settles O8: the order of the tests does not matter, because a duration lies in one window at most. -/
theorem classifyIsTheWindowTable : Obligations.ClassifyIsTheWindowTable := by
  intro c p h
  obtain ⟨hzo, hzp, hop⟩ := windows_disjoint h p.dur.toNat
  simp only [← inWindow_iff]
  unfold classify
  split
  case isTrue hz => simp_all
  case isFalse hz =>
    split
    case isTrue ho => simp_all
    case isFalse ho =>
      split
      case isTrue hp => simp_all
      case isFalse hp => simp_all

/-! ### Pulses that were encoded -/

/-- The nominal duration of a sent symbol fits 16 bits and lies in the window of its symbol (R38, R41). -/
theorem nominal_in_window {c : Cfg} (h : cfgOk c = true) :
    (nominal c .zero).toNat = c.tZero ∧ (nominal c .one).toNat = c.tOne ∧ (nominal c .preamble).toNat = c.tPre
      ∧ ((windowsOf c).zLo ≤ c.tZero ∧ c.tZero < (windowsOf c).zHi)
      ∧ ((windowsOf c).oLo ≤ c.tOne ∧ c.tOne < (windowsOf c).oHi)
      ∧ (windowsOf c).pLo ≤ c.tPre ∧ c.tPre < (windowsOf c).pHi := by
  obtain ⟨⟨hz, ho, hp, -, -⟩, ⟨hdz, hdo, hdp⟩, -, -⟩ := (cfgOkIsTheFourClauses c).mp h
  simp only [nominal, BitVec.toNat_ofNat, windowsOf_eq]
  omega

/-- A pulse of a symbol's nominal duration is received as that symbol; the mark needs the High level (R133, R138). -/
theorem classify_nominal {c : Cfg} (h : cfgOk c = true) (l : Level) (x : TxSymbol) (hl : x = .preamble → l = .high) :
    classify (windowsOf c) ⟨l, nominal c x⟩ = symbolOfTx x := by
  obtain ⟨hz, ho, hp, hzw, how, hpw⟩ := nominal_in_window h
  obtain ⟨zeroIff, oneIff, preambleIff, -⟩ := classifyIsTheWindowTable c ⟨l, nominal c x⟩ h
  cases x with
  | zero => exact zeroIff.mpr (by rw [hz]; exact hzw)
  | one => exact oneIff.mpr (by rw [ho]; exact how)
  | preamble => exact preambleIff.mpr ⟨hl rfl, by rw [hp]; exact hpw⟩

/-- Every pulse comes back as its symbol, if the marks stand at even indices (R136). -/
theorem decodePulses_encodeFrom {c : Cfg} (h : cfgOk c = true) (syms : List TxSymbol) (i : Nat)
    (heven : preamblesEvenFrom i syms = true) :
    decodePulses (windowsOf c) (encodeFrom c i syms) = syms.map symbolOfTx := by
  induction syms generalizing i with
  | nil => rfl
  | cons x rest ih =>
    obtain ⟨hx, hrest⟩ := Bool.and_eq_true_iff.mp heven
    have hlevel : x = .preamble → levelAt i = .high := by
      rintro rfl
      exact if_pos (by simpa using hx)
    exact congrArg₂ List.cons (classify_nominal h _ x hlevel) (ih (i + 1) hrest)

theorem encodePulses_eq_some {c : Cfg} {syms : List TxSymbol} {ps : List Pulse} (h : encodePulses c syms = some ps) :
    preamblesEvenFrom 0 syms = true ∧ ps = encodeFrom c 0 syms := by
  unfold encodePulses at h
  split at h
  · exact ⟨‹_›, (Option.some.inj h).symm⟩
  · cases h

/-- Data symbols meet the precondition of `encode` from any index on. -/
theorem preamblesEvenFrom_of_no_preamble {syms : List TxSymbol} (h : ∀ x ∈ syms, x ≠ .preamble) (i : Nat) :
    preamblesEvenFrom i syms = true := by
  induction syms generalizing i with
  | nil => rfl
  | cons x rest ih =>
    obtain ⟨hx, hrest⟩ := List.forall_mem_cons.mp h
    simp [preamblesEvenFrom, hx, ih hrest]

/-- Settles O42. -/
theorem pulseRoundTrip : Obligations.PulseRoundTrip := by
  intro c h
  refine ⟨fun syms ps hps => ?inDomain, fun b hb => ?dataBits⟩
  case inDomain =>
    obtain ⟨heven, rfl⟩ := encodePulses_eq_some hps
    exact decodePulses_encodeFrom h syms 0 heven
  case dataBits =>
    have heven := preamblesEvenFrom_of_no_preamble hb 0
    exact ⟨encodeFrom c 0 b, if_pos heven, decodePulses_encodeFrom h b 0 heven⟩

/-! ### The shape of an encoded frame -/

/-- The air time by the numbers of symbols of each kind, wherever the sequence starts. -/
theorem airTime_encodeFrom {c : Cfg} (h : cfgOk c = true) (syms : List TxSymbol) (i : Nat) :
    airTime (encodeFrom c i syms)
      = syms.count .preamble * c.tPre + syms.count .zero * c.tZero + syms.count .one * c.tOne := by
  obtain ⟨hz, ho, hp, -⟩ := nominal_in_window h
  induction syms generalizing i with
  | nil => simp [encodeFrom, airTime]
  | cons x rest ih =>
    have hcons : airTime (encodeFrom c i (x :: rest)) = (nominal c x).toNat + airTime (encodeFrom c (i + 1) rest) :=
      rfl
    rw [hcons, ih]
    cases x with
    | zero => rw [hz]; simp; ring
    | one => rw [ho]; simp; ring
    | preamble => rw [hp]; simp; ring

/-- A frame's bits are data symbols. -/
theorem ne_preamble_of_mem_bits {f : Bytes} {x : TxSymbol} (h : x ∈ bits f) : x ≠ .preamble := by
  obtain ⟨b, -, hb⟩ := List.mem_flatMap.mp h
  obtain ⟨j, -, rfl⟩ := List.mem_map.mp hb
  split <;> simp

theorem encodePulses_wire (c : Cfg) (f : Bytes) : encodePulses c (.preamble :: bits f) = some (wire c f) := by
  refine if_pos ?_
  simp [preamblesEvenFrom, preamblesEvenFrom_bits]

/-- Pulse `k + 1` of a frame on the wire carries data symbol `k` at its nominal duration (R137). -/
theorem getElem?_wire_dataSymbol (c : Cfg) {f : Bytes} {k : Nat} (hk : k < 8 * f.length) :
    (wire c f)[k + 1]? = some ⟨if k % 2 = 0 then .low else .high, nominal c (dataSymbol f k)⟩ := by
  rw [wire, getElem?_encodeFrom, List.getElem?_cons_succ, getElem?_bits hk, Option.map_some, Nat.zero_add, levelAt_succ]

/-- A frame is a whole number of bytes, so its last pulse has an even index and is High (R137). -/
theorem getLast?_wire (c : Cfg) (f : Bytes) :
    (wire c f).getLast?
      = some ⟨.high, nominal c (if f = [] then .preamble else dataSymbol f (8 * f.length - 1))⟩ := by
  rw [List.getLast?_eq_getElem?, length_wire]
  by_cases hf : f = []
  · subst hf
    rfl
  · have hpos : 0 < f.length := List.length_pos_iff.mpr hf
    have hindex : 1 + 8 * f.length - 1 = (8 * f.length - 1) + 1 := by omega
    rw [hindex, getElem?_wire_dataSymbol c (by omega), if_neg (by omega), if_neg hf]

/-- Settles O43: the frame on the wire is the encoded sequence. -/
theorem encodedFrameShape : Obligations.EncodedFrameShape := by
  intro c f h dataBit
  refine ⟨wire c f, encodePulses_wire c f, length_wire c f, getElem?_wire_zero c f,
    fun k hk => getElem?_wire_dataSymbol c hk, getLast?_wire c f, ?airTime⟩
  case airTime =>
    have hmarks : (bits f).count .preamble = 0 := List.count_eq_zero.mpr fun hx => ne_preamble_of_mem_bits hx rfl
    rw [wire, airTime_encodeFrom h]
    simp [hmarks]

end Sys2Proof.Proofs

/-!
What each instruction and each step does to the machine (`10_state.md`, `43_host_operations.md`, `60_exceptions.md`):
the receive rows over the receive step, everything an instruction can do, its frame, and the legal results on the
ports.
-/

namespace Sys2Proof.Proofs

open Sys2Proof.Machine

/-! ### The receive rows -/

theorem exec_zero (p : Pulse) (s : State) : exec (.zero p) s = receive .zero s := rfl

theorem exec_one (p : Pulse) (s : State) : exec (.one p) s = receive .one s := rfl

theorem exec_preamble (d : BitVec 16) (s : State) : exec (.preamble d) s = receive .preamble s := rfl

theorem exec_invalid (p : Pulse) (s : State) : exec (.invalid p) s = receive .invalid s := rfl

/-- The pulse rows are the receive step of the symbol that their pulse classifies as. -/
theorem exec_decodePulse (w : Windows) (p : Pulse) (s : State) :
    exec (decodePulse w p) s = receive (classify w p) s := by
  unfold decodePulse
  split <;> rename_i hsym <;> rw [hsym]
  · exact exec_zero p s
  · exact exec_one p s
  · exact exec_preamble p.dur s
  · exact exec_invalid p s

/-- Settles O14. -/
theorem rxPulseRunsClassifiedRow : Obligations.RxPulseRunsClassifiedRow := fun s p =>
  (exec_rxPulse p s).trans (exec_decodePulse s.win p s).symm

/-- The machine's state after a receive step that goes on: the receive state and `rx_result` of R261, the other ports
empty. `receive_eq_received` ties it to the model. -/
def received (sym : Symbol) (s : State) : State :=
  { s with
    rx := (rxSymbolStep (checksumOf s.cfg.checksum) s.rx sym).1
    rxResult := (rxSymbolStep (checksumOf s.cfg.checksum) s.rx sym).2
    txResult := none
    statusOut := none }

theorem receive_eq_received {sym : Symbol} {s : State} (h : bitOutOfBuf s.rx sym = false) :
    receive sym s = .next (received sym s) :=
  receive_next sym s h

/-- A receive step has one state to go on to. -/
theorem eq_received_of_receive {sym : Symbol} {s t : State} (h : receive sym s = .next t) : t = received sym s := by
  cases hbuf : bitOutOfBuf s.rx sym with
  | false =>
    rw [receive_eq_received hbuf] at h
    injection h with h
    exact h.symm
  | true =>
    rw [receive_fault sym s hbuf] at h
    cases h

/-- A symbol step on the receive state, carried over to the machine. -/
theorem receive_of_rxSymbolStep {sym : Symbol} {s : State} {r : RxState} {res : Option RxResult}
    (hbuf : bitOutOfBuf s.rx sym = false) (hstep : rxSymbolStep (checksumOf s.cfg.checksum) s.rx sym = (r, res)) :
    receive sym s = .next { s with rx := r, rxResult := res, txResult := none, statusOut := none } := by
  rw [receive_eq_received hbuf, received, hstep]

/-- Settles O9. -/
theorem dataBitWhileScanningIsSkipped : Obligations.DataBitWhileScanningIsSkipped := by
  intro s p hst
  exact ⟨receive_of_rxSymbolStep (bitOutOfBuf_of_waiting _ hst) (rxSymbolStep_bit_of_waiting _ (.inl rfl) hst),
    receive_of_rxSymbolStep (bitOutOfBuf_of_waiting _ hst) (rxSymbolStep_bit_of_waiting _ (.inr rfl) hst)⟩

/-- Settles O12. -/
theorem preambleStartsAttempt : Obligations.PreambleStartsAttempt := by
  intro s d
  exact ⟨fun hst => receive_of_rxSymbolStep rfl (rxSymbolStep_preamble_of_waiting _ hst),
    fun hst => receive_of_rxSymbolStep rfl (rxSymbolStep_preamble_of_collecting _ hst)⟩

/-- Settles O13. -/
theorem invalidAbortsAttempt : Obligations.InvalidAbortsAttempt := fun s _ =>
  receive_of_rxSymbolStep rfl (rxSymbolStep_invalid _ s.rx)

/-- After a failure of the receive step the receive state is the one R283's table gives for its kind. -/
theorem rxSymbolStep_fail {chk : Bytes → Byte} {r : RxState} {sym : Symbol} {x : Failure}
    (h : (rxSymbolStep chk r sym).2 = some (.fail x)) : (rxSymbolStep chk r sym).1 = failureRx x r := by
  obtain ⟨a, ha, hx⟩ := Option.map_eq_some_iff.mp h
  rcases asmStep_result chk r _ sym a (Prod.ext rfl ha) with ⟨c, b, n, rfl, hr⟩ | ⟨f, rfl, hr⟩ | ⟨f, rfl, hr⟩
  · cases hx
    exact hr
  · cases hx
    exact hr
  · exact hr.trans (failureRx_dispatch f x r hx).symm

/-- Settles O17: the failure on the port is the receive step's, so R283's table gives the state, and its kind is one of
the four that leave on `rx_result`. -/
theorem failureStateChange : Obligations.FailureStateChange := by
  intro s t p f hrun hres
  rw [exec_rxPulse] at hrun
  obtain rfl := eq_received_of_receive hrun
  have hrx : (received (classify s.win p) s).rx = failureRx f s.rx := rxSymbolStep_fail hres
  have hkind : rxFailureKind f = true := rxFailureKind_of_rxSymbolStep hres
  rw [hrx]
  refine ⟨?_, ?_, ?_, ?_, ?_, ?_, ?_⟩
  · rintro c n rfl; rfl
  · rintro c n rfl; rfl
  · rintro fr rfl; rfl
  · rintro fr rfl; rfl
  · rintro fl fr rfl; rfl
  · rintro rfl; cases hkind
  · rintro fl rfl; cases hkind

/-! ### Everything an instruction can do -/

/-- What running `i` from `s` comes down to: the receive step of a symbol, `parse` of some bytes, construction,
clearing, transmission, or the status view. `exec_form` ties it to the model. -/
inductive ExecForm (i : Instr) (s : State) : Prop
  | receives (sym : Symbol) (h : exec i s = receive sym s)
  | parses (f : Bytes) (h : exec i s = .next (s.emitRx (parse (checksumOf s.cfg.checksum) f)))
  | resets (c : Cfg) (hi : i = .reset c)
  | clears (h : exec i s = .next (s.setRx RxState.idle))
  | transmits (r : TxReq) (h : exec i s = .next (s.emitTx (txOutput s.cfg r)))
  | reports (h : exec i s = .next s.emitStatus)

theorem exec_form (i : Instr) (s : State) : ExecForm i s := by
  cases i with
  | zero p => exact .receives .zero (exec_zero p s)
  | one p => exact .receives .one (exec_one p s)
  | preamble d => exact .receives .preamble (exec_preamble d s)
  | invalid p => exact .receives .invalid (exec_invalid p s)
  | entry q n e k | motion q n e k | keychain q n e k | pinreq q n d k | pinresp q n b r k =>
    exact .parses _ (exec_of_encode_frame s rfl rfl)
  | unknown f => exact .parses f (exec_unknown f s)
  | reset c => exact .resets c rfl
  | rxPulse p => exact .receives _ (exec_rxPulse p s)
  | rxClear => exact .clears (exec_rxClear s)
  | txMsg r => exact .transmits r (exec_txMsg_next r s)
  | status => exact .reports (exec_status s)

/-- Settles O23. -/
theorem resetRefusesBadCfg : Obligations.ResetRefusesBadCfg := fun _ _ h =>
  if_neg (by simp [h])

/-- Where running `i` from `s` leads if it goes on. `exec_leadsTo` ties it to the model. -/
inductive LeadsTo (i : Instr) (s t : State) : Prop
  | receives (sym : Symbol) (ht : t = received sym s)
  | parses (f : Bytes) (ht : t = s.emitRx (parse (checksumOf s.cfg.checksum) f))
  | constructs (c : Cfg) (hi : i = .reset c) (hok : cfgOk c = true) (ht : t = s.construct c)
  | clears (ht : t = s.setRx RxState.idle)
  | transmits (r : TxReq) (ht : t = s.emitTx (txOutput s.cfg r))
  | reports (ht : t = s.emitStatus)

theorem exec_leadsTo {i : Instr} {s t : State} (h : exec i s = .next t) : LeadsTo i s t := by
  cases exec_form i s with
  | receives sym hi => exact .receives sym (eq_received_of_receive (hi.symm.trans h))
  | parses f hi => exact .parses f (Host.Outcome.next.inj (h.symm.trans hi))
  | resets c hi =>
    subst hi
    cases hok : cfgOk c with
    | true =>
      have hrun := (exec_reset c s).trans (execReset_of_cfgOk c s hok)
      exact .constructs c rfl hok (Host.Outcome.next.inj (h.symm.trans hrun))
    | false =>
      rw [resetRefusesBadCfg s c hok] at h
      cases h
  | clears hi => exact .clears (Host.Outcome.next.inj (h.symm.trans hi))
  | transmits r hi => exact .transmits r (Host.Outcome.next.inj (h.symm.trans hi))
  | reports hi => exact .reports (Host.Outcome.next.inj (h.symm.trans hi))

/-- Every instruction but a construction leaves the configuration and its constants alone (R38, R75). -/
theorem cfg_of_exec {i : Instr} {s t : State} (h : exec i s = .next t) :
    (t.cfg = s.cfg ∧ t.win = s.win)
      ∨ ∃ c, i = .reset c ∧ cfgOk c = true ∧ t.cfg = c ∧ t.win = windowsOf c := by
  rcases exec_leadsTo h with ⟨sym, rfl⟩ | ⟨f, rfl⟩ | ⟨c, hi, hok, rfl⟩ | rfl | ⟨r, rfl⟩ | rfl
  case constructs => exact .inr ⟨c, hi, hok, rfl, rfl⟩
  all_goals exact .inl ⟨rfl, rfl⟩

/-- With a receive state of R36 every instruction goes on, the requests untouched, but for a refused construction. -/
theorem exec_completes (i : Instr) {s : State} (hrx : s.rx.Inv) :
    (∃ t, exec i s = .next t ∧ t.input = s.input)
      ∨ ∃ c, i = .reset c ∧ cfgOk c = false ∧ exec i s = .refused .cfgNotOk := by
  cases exec_form i s with
  | receives sym hi => exact .inl ⟨_, hi.trans (receive_eq_received (bitOutOfBuf_of_inv s.rx sym hrx)), rfl⟩
  | parses f hi => exact .inl ⟨_, hi, rfl⟩
  | resets c hi =>
    subst hi
    cases hok : cfgOk c with
    | true => exact .inl ⟨_, (exec_reset c s).trans (execReset_of_cfgOk c s hok), rfl⟩
    | false => exact .inr ⟨c, rfl, hok, resetRefusesBadCfg s c hok⟩
  | clears hi => exact .inl ⟨_, hi, rfl⟩
  | transmits r hi => exact .inl ⟨_, hi, rfl⟩
  | reports hi => exact .inl ⟨_, hi, rfl⟩

/-! ### The step -/

theorem step_of_cons {s : State} {x : Input} {rest : List Input} (h : s.input = x :: rest) :
    step s = exec (decode s.win x) (s.popInput rest) := by
  rw [step, h]

theorem step_of_nil {s : State} (h : s.input = []) : step s = .next s := by
  rw [step, h]

/-- Settles O5. -/
theorem stepRunsDecodedInstruction : Obligations.StepRunsDecodedInstruction :=
  ⟨fun _ _ _ h => step_of_cons h, fun _ h => step_of_nil h⟩

/-- Only a request for `RESET` decodes to `RESET`. -/
theorem eq_reset_of_decode {w : Windows} {x : Input} {c : Cfg} (h : decode w x = .reset c) :
    x = .port (.reset c) := by
  obtain ⟨henc, -⟩ := encodeOfDecodedInput w x
  rw [h] at henc
  exact henc.symm

/-- Settles O34. -/
theorem onlyResetChangesCfg : Obligations.OnlyResetChangesCfg := by
  intro s t hstep hdiff
  rcases step_cases s with ⟨-, hs⟩ | ⟨x, rest, hin, hs⟩ <;> rw [hs] at hstep
  · cases hstep
    exact absurd hdiff (by simp)
  · rcases cfg_of_exec hstep with ⟨hcfg, hwin⟩ | ⟨c, hi, -, hcfg, hwin⟩
    · exact absurd hdiff (by simp [hcfg, hwin])
    · rw [hin, eq_reset_of_decode hi]
      exact ⟨c, rest, rfl, hcfg, hwin⟩

/-- Settles O39: an instruction that does not go on is a refused construction, which is no fault. -/
theorem invariantRulesOutFaults : Obligations.InvariantRulesOutFaults := by
  intro s r hinv hfault
  obtain ⟨-, -, hrx⟩ := hinv
  rcases step_cases s with ⟨-, hs⟩ | ⟨x, rest, -, hs⟩ <;> rw [hs] at hfault
  · cases hfault
  · rcases exec_completes (s := s.popInput rest) (decode s.win x) hrx with ⟨t, ht, -⟩ | ⟨c, -, -, ht⟩ <;>
      rw [ht] at hfault <;> cases hfault

/-- Settles O40. -/
theorem everyOperationCompletes : Obligations.EveryOperationCompletes := by
  intro s x rest hinv hin hreset
  obtain ⟨-, -, hrx⟩ := hinv
  rw [step_of_cons hin]
  rcases exec_completes (s := s.popInput rest) (decode s.win x) hrx with h | ⟨c, hi, hbad, -⟩
  · exact h
  · rw [hreset c (eq_reset_of_decode hi)] at hbad
    cases hbad

/-! ### What each instruction leaves alone -/

/-- Settles O30. -/
theorem receiveRowsFrame : Obligations.ReceiveRowsFrame := by
  intro s t p d i hi hrun
  have hrow : ∃ sym, exec i s = receive sym s := by
    simp only [List.mem_cons, List.not_mem_nil, or_false] at hi
    rcases hi with rfl | rfl | rfl | rfl | rfl
    · exact ⟨_, exec_zero p s⟩
    · exact ⟨_, exec_one p s⟩
    · exact ⟨_, exec_preamble d s⟩
    · exact ⟨_, exec_invalid p s⟩
    · exact ⟨_, exec_rxPulse p s⟩
  obtain ⟨sym, hsym⟩ := hrow
  obtain rfl := eq_received_of_receive (hsym.symm.trans hrun)
  exact ⟨rfl, rfl, rfl, rfl, rfl⟩

/-- A Preamble symbol leaves `start` in either state (R161, R165). -/
theorem rxSymbolStep_preamble_fst (chk : Bytes → Byte) (r : RxState) :
    (rxSymbolStep chk r .preamble).1 = RxState.start := by
  cases hst : r.rxSt with
  | waiting => rw [rxSymbolStep_preamble_of_waiting chk hst]
  | collecting => rw [rxSymbolStep_preamble_of_collecting chk hst]

/-- Settles O32: the receive state after each of them is `start` or `idle`, whose buffer is empty. -/
theorem clearingRowsFrame : Obligations.ClearingRowsFrame := by
  intro s t p d c
  refine ⟨fun i hi hrun => ?rows, fun hrun => ?reset⟩
  case rows =>
    simp only [List.mem_cons, List.not_mem_nil, or_false] at hi
    rcases hi with rfl | rfl | rfl
    · rw [exec_preamble] at hrun
      obtain rfl := eq_received_of_receive hrun
      have hrx : (received .preamble s).rx = RxState.start := rxSymbolStep_preamble_fst _ _
      rw [hrx]
      exact ⟨Memory.read_nil, rfl, rfl, rfl, rfl, rfl, rfl, rfl⟩
    · rw [exec_invalid] at hrun
      obtain rfl := eq_received_of_receive hrun
      exact ⟨Memory.read_nil, rfl, rfl, rfl, rfl, rfl, rfl, rfl⟩
    · rw [exec_rxClear] at hrun
      cases hrun
      exact ⟨Memory.read_nil, rfl, rfl, rfl, rfl, rfl, rfl, rfl⟩
  case reset =>
    rw [exec_reset] at hrun
    unfold execReset at hrun
    split at hrun <;> cases hrun
    exact ⟨Memory.read_nil, rfl, rfl, rfl, rfl, rfl, rfl⟩

/-- Settles O33: these instructions only emit. -/
theorem nonReceivingRowsFrame : Obligations.NonReceivingRowsFrame := by
  intro s t q c b e k d f r i hi hrun
  have hrow : (∃ res, exec i s = .next (s.emitRx res)) ∨ (∃ res, exec i s = .next (s.emitTx res))
      ∨ exec i s = .next s.emitStatus := by
    simp only [List.mem_cons, List.not_mem_nil, or_false] at hi
    rcases hi with rfl | rfl | rfl | rfl | rfl | rfl | rfl | rfl
    · exact .inl ⟨_, rfl⟩
    · exact .inl ⟨_, rfl⟩
    · exact .inl ⟨_, rfl⟩
    · exact .inl ⟨_, rfl⟩
    · exact .inl ⟨_, rfl⟩
    · exact .inl ⟨_, rfl⟩
    · exact .inr (.inl ⟨_, exec_txMsg_next r s⟩)
    · exact .inr (.inr (exec_status s))
  rcases hrow with ⟨res, hs⟩ | ⟨res, hs⟩ | hs <;> rw [hs] at hrun <;> cases hrun <;>
    exact ⟨rfl, fun _ => rfl, rfl, rfl, rfl⟩

/-! ### The result ports -/

/-- Settles O27. -/
theorem portsHoldTheOperationsOutput : Obligations.PortsHoldTheOperationsOutput := by
  intro s t p f c r
  refine ⟨fun i hi hrun => ?receive, fun hrun => ?frame, fun i hi hrun => ?silent, fun hrun => ?transmit,
    fun hrun => ?status⟩
  case receive =>
    have hrow : exec i s = receive (classify s.win p) s := by
      simp only [List.mem_cons, List.not_mem_nil, or_false] at hi
      rcases hi with rfl | rfl
      · exact exec_rxPulse p s
      · exact exec_decodePulse s.win p s
    obtain rfl := eq_received_of_receive (hrow.symm.trans hrun)
    exact ⟨rfl, rfl, rfl⟩
  case frame =>
    rw [frameRowsAreParse] at hrun
    cases hrun
    exact ⟨rfl, rfl, rfl⟩
  case silent =>
    simp only [List.mem_cons, List.not_mem_nil, or_false] at hi
    rcases hi with rfl | rfl
    · rw [exec_reset] at hrun
      unfold execReset at hrun
      split at hrun <;> cases hrun
      exact ⟨rfl, rfl, rfl⟩
    · rw [exec_rxClear] at hrun
      cases hrun
      exact ⟨rfl, rfl, rfl⟩
  case transmit =>
    obtain rfl := eq_emitTx_of_exec_txMsg hrun
    exact ⟨rfl, rfl, fun e he => congrArg some (txOutput_of_error s.cfg he),
      fun m hm => congrArg some (txOutput_of_ok s.cfg hm)⟩
  case status =>
    rw [exec_status] at hrun
    cases hrun
    exact ⟨rfl, rfl, rfl⟩

/-- A result that R262 and R201 let on `rx_result`. `portsOk_iff` ties it to the model. -/
def LegalRx (r : RxResult) : Prop :=
  (∀ m, r = .ok m → messageOk m = true) ∧ ∀ x, r = .fail x → rxFailureKind x = true

/-- A result that R264 lets on `tx_result`. -/
def LegalTx (r : TxResult) : Prop :=
  ∀ x, r = .fail x → ∃ fl, x = .constructionError fl

theorem portsOk_iff (s : State) :
    portsOk s = true ↔ (∀ r, s.rxResult = some r → LegalRx r) ∧ ∀ r, s.txResult = some r → LegalTx r := by
  unfold portsOk
  rw [Bool.and_eq_true]
  refine and_congr ?_ ?_
  · rcases s.rxResult with _ | m | x <;> simp [LegalRx]
  · rcases s.txResult with _ | ps | x
    · simp
    · simp [LegalTx]
    · cases x <;> simp [LegalTx]

theorem legalRx_fail {x : Failure} (h : rxFailureKind x = true) : LegalRx (.fail x) :=
  ⟨nofun, fun _ hx => RxResult.fail.inj hx ▸ h⟩

theorem legalRx_of_dispatch (f : Bytes) : LegalRx (dispatch f) :=
  ⟨fun _ h => messageOk_of_dispatch h, fun _ h => rxFailureKind_of_dispatch h⟩

theorem legalRx_parse (chk : Bytes → Byte) (f : Bytes) : LegalRx (parse chk f) := by
  unfold parse
  split
  · exact legalRx_fail rfl
  · rcases checked_cases chk f (dispatch f) with ⟨-, hd⟩ | ⟨-, hd⟩ <;> rw [hd]
    · exact legalRx_of_dispatch f
    · exact legalRx_fail rfl

theorem legalRx_rxSymbolStep {chk : Bytes → Byte} {r : RxState} {sym : Symbol} {res : RxResult}
    (h : (rxSymbolStep chk r sym).2 = some res) : LegalRx res := by
  refine ⟨?message, fun x hx => rxFailureKind_of_rxSymbolStep (hx ▸ h)⟩
  case message =>
    rintro m rfl
    obtain ⟨a, -, ha⟩ := Option.map_eq_some_iff.mp h
    cases a with
    | ok f => exact messageOk_of_dispatch ha
    | fail x => cases ha

theorem legalTx_txOutput (c : Cfg) (r : TxReq) : LegalTx (txOutput c r) := by
  intro x hx
  cases hc : construct r with
  | error y =>
    rw [txOutput_of_error c hc] at hx
    cases hx
    exact construct_error r x hc
  | ok m =>
    rw [txOutput_of_ok c hc] at hx
    cases hx

theorem portsOk_received (sym : Symbol) (s : State) : portsOk (received sym s) = true :=
  (portsOk_iff _).mpr ⟨fun _ h => legalRx_rxSymbolStep h, nofun⟩

theorem portsOk_emitRx {r : RxResult} (s : State) (h : LegalRx r) : portsOk (s.emitRx r) = true :=
  (portsOk_iff _).mpr ⟨fun _ hr => Option.some.inj hr ▸ h, nofun⟩

theorem portsOk_emitTx {r : TxResult} (s : State) (h : LegalTx r) : portsOk (s.emitTx r) = true :=
  (portsOk_iff _).mpr ⟨nofun, fun _ hr => Option.some.inj hr ▸ h⟩

/-- An instruction that goes on fills one port at most, with a legal result. -/
theorem ports_of_exec {i : Instr} {s t : State} (h : exec i s = .next t) :
    portsOk t = true ∧ oneOutput t = true := by
  rcases exec_leadsTo h with ⟨sym, rfl⟩ | ⟨f, rfl⟩ | ⟨c, -, -, rfl⟩ | rfl | ⟨r, rfl⟩ | rfl
  · exact ⟨portsOk_received sym s, by simp [oneOutput, received]⟩
  · exact ⟨portsOk_emitRx s (legalRx_parse _ f), rfl⟩
  · exact ⟨rfl, rfl⟩
  · exact ⟨rfl, rfl⟩
  · exact ⟨portsOk_emitTx s (legalTx_txOutput _ r), rfl⟩
  · exact ⟨rfl, rfl⟩

/-- Settles O41. -/
theorem portsHoldLegalResults : Obligations.PortsHoldLegalResults := by
  intro s t hports hone hstep
  rcases step_cases s with ⟨-, hs⟩ | ⟨x, rest, -, hs⟩ <;> rw [hs] at hstep
  · cases hstep
    exact ⟨hports, hone⟩
  · exact ports_of_exec hstep

/-! ### Requests over the port's width -/

theorem textFits_of_length {t : Bytes} {n : Nat} (h : t.length = n) (hn : n ≤ 255) : textFits t = true := by
  rw [textFits, decide_eq_true_eq]
  omega

theorem sequenceFits_of_le {n : Nat} (h : n ≤ 15) : sequenceFits n = true := by
  rw [sequenceFits, decide_eq_true_eq]
  omega

/-- What a constructor accepts fits the port: five characters, four digits, a number up to 15 (R219 to R221). -/
theorem fitsPort_of_construct {r : TxReq} {m : Message} (h : construct r = .ok m) : r.fitsPort = true := by
  refine Bool.and_eq_true_iff.mpr ?_
  cases r with
  | entrySensor t n e | motionSensor t n e | keychainRemote t n e =>
    obtain ⟨ht, hn, -⟩ := withSerialSeq_eq_ok h
    exact ⟨textFits_of_length ht.1 (by omega), sequenceFits_of_le hn⟩
  | pinRequest t n p =>
    obtain ⟨ht, hn, hp, -⟩ := constructPinRequest_eq_ok h
    exact ⟨Bool.and_eq_true_iff.mpr ⟨textFits_of_length ht.1 (by omega), textFits_of_length hp.1 (by omega)⟩,
      sequenceFits_of_le hn⟩
  | pinResponse t n b x =>
    obtain ⟨ht, hn, hb, -⟩ := constructPinResponse_eq_ok h
    exact ⟨Bool.and_eq_true_iff.mpr ⟨textFits_of_length ht.1 (by omega), textFits_of_length hb.1 (by omega)⟩,
      sequenceFits_of_le hn⟩

/-- Settles O58: what does not fit the port no constructor accepts. -/
theorem requestOverThePortWidthIsRejected : Obligations.RequestOverThePortWidthIsRejected := by
  intro s r rest hin hwide
  cases hc : construct r with
  | ok m =>
    rw [fitsPort_of_construct hc] at hwide
    cases hwide
  | error x =>
    obtain ⟨fl, rfl⟩ := construct_error r x hc
    have hrun : step s = .next ((s.popInput rest).emitTx (txOutput s.cfg r)) := by
      rw [step_of_cons hin]
      exact exec_txMsg_next r _
    exact ⟨_, fl, hrun, congrArg some (txOutput_of_error s.cfg hc), rfl, rfl, rfl, rfl⟩

end Sys2Proof.Proofs

/-!
The invariant of the receive state (`10_state.md` R32, R33, R36): its bounds, that every step keeps it, and what a data
bit does in a state that meets it (R164, R166).
-/

namespace Sys2Proof.Proofs

open Sys2Proof.Machine

/-! ### The bounds -/

/-- While collecting, the header's length is known exactly from bit 16 on. -/
theorem expLen_of_collecting {r : RxState} (h : r.Inv) (hc : r.rxSt = .collecting) :
    (r.nbits.toNat < 16 ∧ r.expLen = 0)
      ∨ (16 ≤ r.nbits.toNat ∧ r.expLen.toNat = frameLen (Memory.read r.buf 0) (hiNibble (Memory.read r.buf 1))
          ∧ r.nbits.toNat < 8 * r.expLen.toNat
          ∧ (r.expLen.toNat = 9 ∨ r.expLen.toNat = 10 ∨ r.expLen.toNat = 14)) := by
  obtain ⟨-, -, hlow, hhigh, -⟩ := h
  rcases Nat.lt_or_ge r.nbits.toNat 16 with hlt | hge
  · exact .inl ⟨hlt, hlow hc hlt⟩
  · obtain ⟨hlen, hn⟩ := hhigh hc hge
    exact .inr ⟨hge, hlen, hn, hlen ▸ frameLen_cases _ _⟩

/-- The largest stored value of `NBITS` (R32). -/
theorem nbits_le {r : RxState} (h : r.Inv) : r.nbits.toNat ≤ 111 := by
  cases hst : r.rxSt with
  | waiting =>
    rw [rx_eq_idle_of_waiting h hst]
    decide
  | collecting => rcases expLen_of_collecting h hst with ⟨hn, -⟩ | ⟨-, -, hn, hlen⟩ <;> omega

/-- Settles O38. -/
theorem nbitsAndExpLenBounds : Obligations.NbitsAndExpLenBounds := by
  rintro s ⟨-, -, hrx⟩
  refine ⟨nbits_le hrx, fun hw => ?scanning, fun hc he => ?header, fun hc he => ?frame⟩
  case scanning =>
    rw [rx_eq_idle_of_waiting hrx hw]
    exact ⟨rfl, rfl⟩
  case header =>
    rcases expLen_of_collecting hrx hc with ⟨hn, -⟩ | ⟨-, -, -, hlen⟩
    · exact hn
    · rw [he] at hlen
      simp at hlen
  case frame =>
    rcases expLen_of_collecting hrx hc with ⟨-, he0⟩ | ⟨h16, -, hn, hlen⟩
    · exact absurd he0 he
    · exact ⟨h16, hn, hlen⟩

/-! ### A data bit -/

theorem inv_idle : RxState.idle.Inv :=
  ⟨rfl, fun _ => rfl, nofun, nofun, fun k _ _ => Memory.frameBit_nil k⟩

theorem inv_start : RxState.start.Inv :=
  ⟨rfl, nofun, fun _ _ => rfl, fun _ h => absurd h (by decide), fun k _ _ => Memory.frameBit_nil k⟩

/-- The receive state after a data bit that is not the last one (R164). `shiftIn_of_not_completes` ties it to the
model. -/
def collected (r : RxState) (b : Bool) : RxState :=
  { rxSt := .collecting
    nbits := BitVec.ofNat 7 (r.nbits.toNat + 1)
    expLen := BitVec.ofNat 4 (lenAfter r b)
    buf := bufAfter r b }

theorem shiftIn_of_not_completes (chk : Bytes → Byte) {r : RxState} {b : Bool} (hc : r.rxSt = .collecting)
    (h : completes r b = false) : shiftIn chk r b = (collected r b, none) := by
  simp [shiftIn, hc, h, collected]

theorem shiftIn_of_completes (chk : Bytes → Byte) {r : RxState} {b : Bool} (hc : r.rxSt = .collecting)
    (h : completes r b = true) : shiftIn chk r b = (RxState.idle, some (validate chk (frameAfter r b))) := by
  simp [shiftIn, hc, h]

theorem completes_iff (r : RxState) (b : Bool) :
    completes r b = true ↔ lenAfter r b ≠ 0 ∧ r.nbits.toNat + 1 = 8 * lenAfter r b := by
  simp only [completes, Bool.and_eq_true, decide_eq_true_eq]

theorem lenAfter_of_ne {r : RxState} {b : Bool} (h : r.nbits.toNat + 1 ≠ 16) : lenAfter r b = r.expLen.toNat :=
  if_neg h

/-- The step that completes the header never completes the frame, so the length known before it decides (R166). -/
theorem completes_iff_of_inv {r : RxState} (b : Bool) (h : r.Inv) (hc : r.rxSt = .collecting) :
    completes r b = true ↔ r.expLen ≠ 0 ∧ r.nbits.toNat + 1 = 8 * r.expLen.toNat := by
  rw [completes_iff]
  by_cases hn : r.nbits.toNat + 1 = 16
  · have hlen := lenAfter_of_inv b h hc
    rcases expLen_of_collecting h hc with ⟨-, he⟩ | ⟨h16, -⟩
    · rw [he]
      constructor
      · omega
      · exact fun hne => absurd rfl hne.1
    · omega
  · rw [lenAfter_of_ne hn, ← BitVec.toNat_inj.ne]
    rfl

section
variable {r : RxState} {b : Bool} (h : r.Inv)
include h

theorem wf_bufAfter : Memory.wf (bufAfter r b) = true := by
  have := nbits_le h
  exact Memory.wf_setFrameBit _ _ _ (by simp [Memory.size, maxLen]; omega) h.1

/-- Bit `NBITS` of the frame is the one shifted in, every other bit is as before (R164). -/
theorem frameBit_bufAfter (k : Nat) :
    Memory.frameBit (bufAfter r b) k = if k = r.nbits.toNat then b else Memory.frameBit r.buf k :=
  Memory.frameBit_setFrameBit _ _ _ _ h.1

theorem read_bufAfter {a : Nat} (ha : a ≠ r.nbits.toNat / 8) :
    Memory.read (bufAfter r b) a = Memory.read r.buf a :=
  Memory.read_setFrameBit_other _ _ _ _ h.1 ha

/-- `NBITS` has room for one more bit. -/
theorem toNat_nbits_collected : (collected r b).nbits.toNat = r.nbits.toNat + 1 := by
  have := nbits_le h
  rw [collected, BitVec.toNat_ofNat]
  omega

theorem toNat_expLen_collected (hc : r.rxSt = .collecting) : (collected r b).expLen.toNat = lenAfter r b := by
  have := lenAfter_of_inv b h hc
  rw [collected, BitVec.toNat_ofNat]
  omega

/-- A data bit that is not the last one keeps R36. -/
theorem inv_collected (hc : r.rxSt = .collecting) (hmore : completes r b = false) : (collected r b).Inv := by
  have hn := toNat_nbits_collected (b := b) h
  have he := toNat_expLen_collected (b := b) h hc
  refine ⟨wf_bufAfter h, nofun, fun _ hlt => ?noHeader, fun _ hge => ?header, fun k hk hnk => ?blank⟩
  case noHeader =>
    rw [hn] at hlt
    rcases expLen_of_collecting h hc with ⟨-, he0⟩ | ⟨h16, -⟩
    · have : lenAfter r b = 0 := by rw [lenAfter_of_ne (by omega), he0]; rfl
      exact BitVec.eq_of_toNat_eq (he.trans this)
    · omega
  case header =>
    rw [hn] at hge ⊢
    rw [he]
    by_cases h16 : r.nbits.toNat + 1 = 16
    · have hlen : lenAfter r b
          = frameLen (Memory.read (bufAfter r b) 0) (hiNibble (Memory.read (bufAfter r b) 1)) := if_pos h16
      refine ⟨hlen, ?_⟩
      have := (frameLen_pos (Memory.read (bufAfter r b) 0) (hiNibble (Memory.read (bufAfter r b) 1))).1
      omega
    · rcases expLen_of_collecting h hc with ⟨hlt, -⟩ | ⟨hge16, hlen, hlt, -⟩
      · omega
      · have hmore' : ¬ (lenAfter r b ≠ 0 ∧ r.nbits.toNat + 1 = 8 * lenAfter r b) := by
          rw [← completes_iff, hmore]
          decide
        rw [lenAfter_of_ne h16] at hmore' ⊢
        have hread (a : Nat) (ha : a < 2) : Memory.read (collected r b).buf a = Memory.read r.buf a :=
          read_bufAfter h (by omega)
        rw [hread 0 (by decide), hread 1 (by decide)]
        exact ⟨hlen, by omega⟩
  case blank =>
    have ⟨_, _, _, _, hblank⟩ := h
    rw [hn] at hnk
    show Memory.frameBit (bufAfter r b) k = false
    rw [frameBit_bufAfter h, if_neg (by omega)]
    exact hblank k hk (by omega)

/-- Every symbol keeps R36. -/
theorem inv_rxSymbolStep (chk : Bytes → Byte) (sym : Symbol) : (rxSymbolStep chk r sym).1.Inv := by
  have shift (b : Bool) : (shiftIn chk r b).1.Inv := by
    rcases shiftIn_cases chk r b with ⟨-, hs⟩ | ⟨-, -, hs⟩ | ⟨hc, hmore, -⟩
    · rw [hs]
      exact h
    · rw [hs]
      exact inv_idle
    · rw [shiftIn_of_not_completes chk hc hmore]
      exact inv_collected h hc hmore
  cases sym with
  | zero => exact shift false
  | one => exact shift true
  | preamble =>
    rw [rxSymbolStep_preamble_fst]
    exact inv_start
  | invalid => exact inv_idle

end

/-! ### The invariant of the machine -/

/-- Every instruction that goes on keeps R36: only the receive step and the two clears write the receive state. -/
theorem inv_rx_of_exec {i : Instr} {s t : State} (hrx : s.rx.Inv) (h : exec i s = .next t) : t.rx.Inv := by
  rcases exec_leadsTo h with ⟨sym, rfl⟩ | ⟨f, rfl⟩ | ⟨c, -, -, rfl⟩ | rfl | ⟨r, rfl⟩ | rfl
  · exact inv_rxSymbolStep hrx _ sym
  · exact hrx
  · exact inv_idle
  · exact inv_idle
  · exact hrx
  · exact hrx

/-- Settles O36: the receive state by R36's lemma, the configuration and its constants because only a construction with
`cfg_ok` writes them. -/
theorem stepKeepsInvariant : Obligations.StepKeepsInvariant := by
  rintro s t hinv hstep
  rcases step_cases s with ⟨-, hs⟩ | ⟨x, rest, -, hs⟩ <;> rw [hs] at hstep
  · cases hstep
    exact hinv
  · obtain ⟨hcfg, hwin, hrx⟩ := hinv
    have hrx' : t.rx.Inv := inv_rx_of_exec (s := s.popInput rest) hrx hstep
    rcases cfg_of_exec hstep with ⟨hc, hw⟩ | ⟨c, -, hok, hc, hw⟩
    · exact ⟨hc ▸ hcfg, by rw [hw, hc]; exact hwin, hrx'⟩
    · exact ⟨hc ▸ hok, by rw [hw, hc], hrx'⟩

/-- Settles O37. -/
theorem resetMeetsInvariant : Obligations.ResetMeetsInvariant :=
  ⟨⟨cfgOk_cfgDefault, rfl, inv_idle⟩, rfl, Memory.read_nil, rfl, rfl, rfl, rfl, rfl⟩

/-! ### The data bit rows on the machine -/

/-- The symbol of a data bit. -/
def bitSymbol (b : Bool) : Symbol := if b then .one else .zero

theorem asmStep_bitSymbol (chk : Bytes → Byte) (r : RxState) (b : Bool) :
    asmStep chk r (bitSymbol b) = shiftIn chk r b := by
  cases b <;> rfl

theorem exec_bitRow (p : Pulse) (b : Bool) (s : State) :
    exec (if b then .one p else .zero p) s = receive (bitSymbol b) s := by
  cases b
  · exact exec_zero p s
  · exact exec_one p s

theorem rxSymbolStep_of_not_completes (chk : Bytes → Byte) {r : RxState} {b : Bool} (hc : r.rxSt = .collecting)
    (h : completes r b = false) : rxSymbolStep chk r (bitSymbol b) = (collected r b, none) := by
  rw [rxSymbolStep, asmStep_bitSymbol, shiftIn_of_not_completes chk hc h]
  rfl

theorem rxSymbolStep_of_completes (chk : Bytes → Byte) {r : RxState} {b : Bool} (hc : r.rxSt = .collecting)
    (h : completes r b = true) :
    rxSymbolStep chk r (bitSymbol b) = (RxState.idle, some (resultOfAsm (validate chk (frameAfter r b)))) := by
  rw [rxSymbolStep, asmStep_bitSymbol, shiftIn_of_completes chk hc h]
  rfl

/-- Settles O10. -/
theorem dataBitIsShiftedIn : Obligations.DataBitIsShiftedIn := by
  rintro s p b ⟨-, -, hrx⟩ hc hnot
  have hmore : completes s.rx b = false := by
    rw [← completes_iff_of_inv b hrx hc] at hnot
    simpa using hnot
  have hn := toNat_nbits_collected (b := b) hrx
  have he := toNat_expLen_collected (b := b) hrx hc
  have hrun := receive_of_rxSymbolStep (bitOutOfBuf_of_inv s.rx (bitSymbol b) hrx)
    (rxSymbolStep_of_not_completes (checksumOf s.cfg.checksum) hc hmore)
  refine ⟨_, (exec_bitRow p b s).trans hrun, rfl, hn, frameBit_bufAfter hrx, fun h16 => ?header, fun h16 => ?same,
    rfl⟩
  case header => exact he.trans (if_pos (hn ▸ h16))
  case same => exact BitVec.eq_of_toNat_eq (he.trans (lenAfter_of_ne (hn ▸ h16)))

/-- `validate` and then `dispatch` is `parse`, for a frame of legal length (R205, R261). -/
theorem resultOfAsm_validate {chk : Bytes → Byte} {f : Bytes} (hlo : 2 ≤ f.length) (hhi : f.length ≤ 14) :
    resultOfAsm (validate chk f) = parse chk f := by
  rw [parse_of_length hlo hhi]
  unfold validate checked
  split <;> rfl

/-- Byte `i` of the completed frame is byte `i` of the buffer. -/
theorem byteAt_frameAfter {r : RxState} {b : Bool} {i : Nat} (hi : i < lenAfter r b) :
    byteAt (frameAfter r b) i = Memory.read (bufAfter r b) i := by
  simp [byteAt, frameAfter, Memory.readBytes, List.getD, hi]

/-- Settles O11. -/
theorem lastDataBitCompletesFrame : Obligations.LastDataBitCompletesFrame := by
  rintro s p b ⟨-, -, hrx⟩ hc he hn
  have hcomp : completes s.rx b = true := (completes_iff_of_inv b hrx hc).mpr ⟨he, hn⟩
  have hlen : lenAfter s.rx b = s.rx.expLen.toNat := by
    obtain ⟨-, h8⟩ := (completes_iff _ _).mp hcomp
    omega
  have hbounds : 2 ≤ lenAfter s.rx b ∧ lenAfter s.rx b ≤ 14 := by
    rcases lenAfter_of_inv b hrx hc with h0 | h
    · exact absurd h0 (lenAfter_ne_zero_of_completes hcomp)
    · omega
  refine ⟨frameAfter s.rx b, ?run, (length_frameAfter _ _).trans hlen, fun k hk => ?bits⟩
  case run =>
    rw [exec_bitRow, receive_of_rxSymbolStep (bitOutOfBuf_of_inv s.rx _ hrx) (rxSymbolStep_of_completes _ hc hcomp),
      resultOfAsm_validate (by simpa using hbounds.1) (by simpa using hbounds.2)]
  case bits =>
    rw [length_frameAfter] at hk
    rw [byteAt_frameAfter (by omega)]
    exact frameBit_bufAfter hrx k

/-- Settles O31. -/
theorem dataBitFrameOfBuf : Obligations.DataBitFrameOfBuf := by
  rintro s t p i hi ⟨-, -, hrx⟩ hrun
  have hrow : ∃ b, exec i s = receive (bitSymbol b) s := by
    simp only [List.mem_cons, List.not_mem_nil, or_false] at hi
    rcases hi with rfl | rfl
    · exact ⟨false, exec_zero p s⟩
    · exact ⟨true, exec_one p s⟩
  obtain ⟨b, hb⟩ := hrow
  obtain rfl := eq_received_of_receive (hb.symm.trans hrun)
  have ht : (received (bitSymbol b) s).rx = (shiftIn (checksumOf s.cfg.checksum) s.rx b).1 :=
    congrArg Prod.fst (asmStep_bitSymbol _ _ b)
  rw [ht]
  rcases shiftIn_cases (checksumOf s.cfg.checksum) s.rx b with ⟨hst, hs⟩ | ⟨hst, -, hs⟩ | ⟨hst, -, hs⟩ <;> rw [hs]
  · exact ⟨fun _ => ⟨rfl, fun _ => rfl⟩, fun hc => by simp [hst] at hc, fun hc => by simp [hst] at hc⟩
  · exact ⟨fun hw => by simp [hst] at hw, nofun, fun _ _ => ⟨rfl, Memory.read_nil⟩⟩
  · exact ⟨fun hw => by simp [hst] at hw, fun _ _ a ha => read_bufAfter hrx ha, nofun⟩

end Sys2Proof.Proofs

/-!
The pipelines (`41_frame_assembler.md` R178, R179, `43_host_operations.md` R266, R267): what the receiver collects of a
frame's bits, the round trips of frames and of transmitted messages, and the machine's run over a list of pulses.
-/

namespace Sys2Proof.Proofs

open Sys2Proof.Machine

/-! ### The bits of a byte sequence -/

/-- Bit `k` of a frame: bit `7 - (k mod 8)` of byte `k div 8` (R62). `bits_symbols` ties it to the model. -/
def frameBitOf (f : Bytes) (k : Nat) : Bool := (byteAt f (k / 8)).getLsbD (7 - k % 8)

/-- The symbol that a receiver sees for bit `k` of a frame. -/
def receivedSymbol (f : Bytes) (k : Nat) : Symbol := bitSymbol (frameBitOf f k)

theorem symbolOfTx_dataSymbol (f : Bytes) (k : Nat) : symbolOfTx (dataSymbol f k) = receivedSymbol f k := by
  unfold dataSymbol receivedSymbol frameBitOf bitSymbol
  split <;> rfl

theorem bits_symbols (f : Bytes) :
    (bits f).map symbolOfTx = (List.range (8 * f.length)).map (receivedSymbol f) := by
  apply List.ext_getElem?
  intro k
  rw [List.getElem?_map, List.getElem?_map]
  rcases Nat.lt_or_ge k (8 * f.length) with hlt | hge
  · rw [getElem?_bits hlt, List.getElem?_range hlt, Option.map_some, Option.map_some, symbolOfTx_dataSymbol]
  · rw [List.getElem?_eq_none (by simpa using hge), List.getElem?_eq_none (by simpa using hge)]
    rfl

/-- A byte is its eight bits. -/
theorem byte_eq_of_bits {x y : Byte} (h : ∀ j, j < 8 → x.getLsbD (7 - j) = y.getLsbD (7 - j)) : x = y := by
  apply BitVec.eq_of_getLsbD_eq
  intro i hi
  have := h (7 - i) (by omega)
  rwa [show 7 - (7 - i) = i by omega] at this

/-- A byte of the buffer that holds the bits of the frame's byte is that byte. -/
theorem read_eq_byteAt {m : Memory} {f : Bytes} {i : Nat}
    (h : ∀ k, k / 8 = i → Memory.frameBit m k = frameBitOf f k) : Memory.read m i = byteAt f i := by
  apply byte_eq_of_bits
  intro j hj
  have := h (8 * i + j) (by omega)
  rwa [Memory.frameBit, frameBitOf, show (8 * i + j) / 8 = i by omega, show (8 * i + j) % 8 = j by omega] at this

/-- The length that a frame's header announces (R94, R110). -/
def announcedLen (f : Bytes) : Nat := frameLen (byteAt f 0) (hiNibble (byteAt f 1))

theorem announcedLen_bounds (f : Bytes) : 9 ≤ announcedLen f ∧ announcedLen f ≤ 14 := frameLen_pos _ _

/-! ### Collecting a frame -/

/-- The receiver is inside a frame attempt and what it has collected are the first bits of `f`. -/
def HoldsBits (f : Bytes) (r : RxState) : Prop :=
  r.Inv ∧ r.rxSt = .collecting ∧ ∀ k, k < r.nbits.toNat → Memory.frameBit r.buf k = frameBitOf f k

theorem holdsBits_start (f : Bytes) : HoldsBits f RxState.start :=
  ⟨inv_start, rfl, fun _ hk => absurd hk (Nat.not_lt_zero _)⟩

section
variable {f : Bytes} {r : RxState} (h : HoldsBits f r)
include h

/-- With the next bit of `f` the buffer holds one bit more of it. -/
theorem frameBit_bufAfter_of_holdsBits {k : Nat} (hk : k < r.nbits.toNat + 1) :
    Memory.frameBit (bufAfter r (frameBitOf f r.nbits.toNat)) k = frameBitOf f k := by
  obtain ⟨hinv, -, hbits⟩ := h
  rw [frameBit_bufAfter hinv]
  split
  · rename_i heq
    rw [heq]
  · exact hbits k (by omega)

theorem read_bufAfter_of_holdsBits {i : Nat} (hi : 8 * i + 8 ≤ r.nbits.toNat + 1) :
    Memory.read (bufAfter r (frameBitOf f r.nbits.toNat)) i = byteAt f i :=
  read_eq_byteAt fun k hk => frameBit_bufAfter_of_holdsBits h (by omega)

/-- From the header's last bit on, the length in use is the one that `f` announces. -/
theorem lenAfter_of_holdsBits (hn : 16 ≤ r.nbits.toNat + 1) :
    lenAfter r (frameBitOf f r.nbits.toNat) = announcedLen f := by
  by_cases h16 : r.nbits.toNat + 1 = 16
  · rw [lenAfter, if_pos h16, read_bufAfter_of_holdsBits h (by omega), read_bufAfter_of_holdsBits h (by omega)]
    rfl
  · obtain ⟨hinv, hc, hbits⟩ := h
    have hread (i : Nat) (hi : i < 2) (hge : 16 ≤ r.nbits.toNat) : Memory.read r.buf i = byteAt f i :=
      read_eq_byteAt fun k hk => hbits k (by omega)
    rcases expLen_of_collecting hinv hc with ⟨hlt, -⟩ | ⟨hge, hlen, -⟩
    · omega
    · rw [lenAfter_of_ne h16, hlen, hread 0 (by decide) hge, hread 1 (by decide) hge]
      rfl

/-- The bit that completes the frame is the last one of the announced length (R166). -/
theorem completes_iff_of_holdsBits :
    completes r (frameBitOf f r.nbits.toNat) = true ↔ r.nbits.toNat + 1 = 8 * announcedLen f := by
  have hlen := announcedLen_bounds f
  rw [completes_iff]
  rcases Nat.lt_or_ge (r.nbits.toNat + 1) 16 with hlt | hge
  · obtain ⟨hinv, hc, -⟩ := h
    rcases expLen_of_collecting hinv hc with ⟨-, he⟩ | ⟨h16, -⟩
    · rw [lenAfter_of_ne (by omega), he]
      constructor
      · exact fun hne => absurd rfl hne.1
      · omega
    · omega
  · rw [lenAfter_of_holdsBits h hge]
    omega

theorem asmStep_of_holdsBits (chk : Bytes → Byte) (hn : r.nbits.toNat + 1 ≠ 8 * announcedLen f) :
    ∃ r', asmStep chk r (receivedSymbol f r.nbits.toNat) = (r', none) ∧ HoldsBits f r'
      ∧ r'.nbits.toNat = r.nbits.toNat + 1 := by
  have hmore : completes r (frameBitOf f r.nbits.toNat) = false :=
    Bool.eq_false_iff.mpr (mt (completes_iff_of_holdsBits h).mp hn)
  have ⟨hinv, hc, _⟩ := h
  have hnbits := toNat_nbits_collected (b := frameBitOf f r.nbits.toNat) hinv
  refine ⟨collected r (frameBitOf f r.nbits.toNat), ?step, ⟨inv_collected hinv hc hmore, rfl, fun k hk => ?bits⟩,
    hnbits⟩
  case step => rw [receivedSymbol, asmStep_bitSymbol, shiftIn_of_not_completes chk hc hmore]
  case bits => exact frameBit_bufAfter_of_holdsBits h (by omega)

/-- The last bit of the announced length hands on the frame's first bytes, as many as announced. -/
theorem asmStep_of_holdsBits_last (chk : Bytes → Byte) (hn : r.nbits.toNat + 1 = 8 * announcedLen f) :
    asmStep chk r (receivedSymbol f r.nbits.toNat)
      = (RxState.idle, some (validate chk ((List.range (announcedLen f)).map (byteAt f)))) := by
  have hcomp := (completes_iff_of_holdsBits h).mpr hn
  have hlen := announcedLen_bounds f
  have ⟨_, hc, _⟩ := h
  have hframe : frameAfter r (frameBitOf f r.nbits.toNat) = (List.range (announcedLen f)).map (byteAt f) := by
    rw [frameAfter, lenAfter_of_holdsBits h (by omega), Memory.readBytes]
    refine List.map_congr_left fun i hi => ?_
    have := List.mem_range.mp hi
    rw [Nat.zero_add, read_bufAfter_of_holdsBits h (by omega)]
  rw [receivedSymbol, asmStep_bitSymbol, shiftIn_of_completes chk hc hcomp, hframe]

end

/-! ### Assembling a frame -/

theorem assembleFrom_append (chk : Bytes → Byte) (r : RxState) (a b : List Symbol) :
    assembleFrom chk r (a ++ b)
      = ((assembleFrom chk r a).1 ++ (assembleFrom chk (assembleFrom chk r a).2 b).1,
          (assembleFrom chk (assembleFrom chk r a).2 b).2) := by
  induction a generalizing r with
  | nil => rfl
  | cons x rest ih => simp only [List.cons_append, assembleFrom, ih, List.append_assoc]

theorem assembleFrom_singleton (chk : Bytes → Byte) (r : RxState) (x : Symbol) :
    assembleFrom chk r [x] = ((asmStep chk r x).2.toList, (asmStep chk r x).1) := by
  simp [assembleFrom]

/-- Before the announced length is reached the bits of a frame give no result and are collected. -/
theorem assembleFrom_before (chk : Bytes → Byte) (f : Bytes) {n : Nat} (hn : n < 8 * announcedLen f) :
    ∃ r, assembleFrom chk RxState.start ((List.range n).map (receivedSymbol f)) = ([], r) ∧ HoldsBits f r
      ∧ r.nbits.toNat = n := by
  induction n with
  | zero => exact ⟨RxState.start, rfl, holdsBits_start f, rfl⟩
  | succ n ih =>
    obtain ⟨r, hrun, hholds, rfl⟩ := ih (by omega)
    obtain ⟨r', hstep, hholds', hn'⟩ := asmStep_of_holdsBits hholds chk (by omega)
    refine ⟨r', ?_, hholds', hn'⟩
    rw [List.range_succ, List.map_append, List.map_singleton, assembleFrom_append, hrun, assembleFrom_singleton, hstep]
    rfl

/-- The bits of the announced length give one result and leave idle. -/
theorem assembleFrom_announced (chk : Bytes → Byte) (f : Bytes) :
    assembleFrom chk RxState.start ((List.range (8 * announcedLen f)).map (receivedSymbol f))
      = ([validate chk ((List.range (announcedLen f)).map (byteAt f))], RxState.idle) := by
  have hlen := announcedLen_bounds f
  obtain ⟨n, hn⟩ : ∃ n, 8 * announcedLen f = n + 1 := ⟨8 * announcedLen f - 1, by omega⟩
  obtain ⟨r, hrun, hholds, rfl⟩ := assembleFrom_before chk f (n := n) (by omega)
  rw [hn, List.range_succ, List.map_append, List.map_singleton, assembleFrom_append, hrun, assembleFrom_singleton,
    asmStep_of_holdsBits_last hholds chk hn.symm]
  rfl

/-- Data bits while scanning are skipped (R163). -/
theorem assembleFrom_idle_bits (chk : Bytes → Byte) (l : List Bool) :
    assembleFrom chk RxState.idle (l.map bitSymbol) = ([], RxState.idle) := by
  induction l with
  | nil => rfl
  | cons b rest ih =>
    rw [List.map_cons, assembleFrom, asmStep_bitSymbol, shiftIn_of_waiting chk b rfl, ih]
    rfl

/-- A mark while scanning gives no result and starts a frame attempt (R161). -/
theorem assembleFrom_mark (chk : Bytes → Byte) (l : List Symbol) :
    assembleFrom chk RxState.idle (.preamble :: l) = assembleFrom chk RxState.start l := rfl

/-- A frame shorter than its header announces gives no result. -/
theorem assembleFrom_short (chk : Bytes → Byte) {f : Bytes} (h : f.length < announcedLen f) :
    (assembleFrom chk RxState.start ((bits f).map symbolOfTx)).1 = [] := by
  obtain ⟨r, hrun, -⟩ := assembleFrom_before chk f (n := 8 * f.length) (by omega)
  rw [bits_symbols, hrun]

/-- A frame at least as long as its header announces gives one result, of as many bytes as announced; the rest of its
bits is skipped. -/
theorem assembleFrom_long (chk : Bytes → Byte) {f : Bytes} (h : announcedLen f ≤ f.length) :
    assembleFrom chk RxState.start ((bits f).map symbolOfTx)
      = ([validate chk ((List.range (announcedLen f)).map (byteAt f))], RxState.idle) := by
  obtain ⟨d, hd⟩ : ∃ d, 8 * f.length = 8 * announcedLen f + d := ⟨8 * f.length - 8 * announcedLen f, by omega⟩
  have hrest : ((List.range d).map (8 * announcedLen f + ·)).map (receivedSymbol f)
      = ((List.range d).map fun k => frameBitOf f (8 * announcedLen f + k)).map bitSymbol := by
    simp only [List.map_map]
    rfl
  rw [bits_symbols, hd, List.range_add, List.map_append, assembleFrom_append, assembleFrom_announced, hrest,
    assembleFrom_idle_bits]
  rfl

theorem map_byteAt_range (f : Bytes) : (List.range f.length).map (byteAt f) = f := by
  apply List.ext_getElem
  · simp
  · intro i h1 h2
    simp [byteAt, h2]

theorem length_frameOf (chk : Bytes → Byte) (b : Bytes) : (frameOf chk b).length = b.length + 1 := by
  simp [frameOf]

/-- The header of a frame is its body's. -/
theorem announcedLen_frameOf (chk : Bytes → Byte) {b : Bytes} (h : 2 ≤ b.length) :
    announcedLen (frameOf chk b) = frameLen (byteAt b 0) (hiNibble (byteAt b 1)) := by
  match b, h with
  | _ :: _ :: _, _ => rfl

/-- A frame carries its own checksum (R169, R177). -/
theorem validate_frameOf (chk : Bytes → Byte) (b : Bytes) : validate chk (frameOf chk b) = .ok (frameOf chk b) :=
  if_pos (by rw [frameOf, bodyOf_append_singleton, chkOf_append_singleton])

/-- A body that announces its own frame's length comes back as its frame (R178). -/
theorem assembleFrom_frameOf (chk : Bytes → Byte) {b : Bytes} (hb : 2 ≤ b.length)
    (hlen : frameLen (byteAt b 0) (hiNibble (byteAt b 1)) = b.length + 1) :
    assembleFrom chk RxState.idle ((disassemble b chk).map symbolOfTx) = ([.ok (frameOf chk b)], RxState.idle) := by
  have hann : announcedLen (frameOf chk b) = (frameOf chk b).length := by
    rw [announcedLen_frameOf chk hb, hlen, length_frameOf]
  show assembleFrom chk RxState.idle (.preamble :: (bits (frameOf chk b)).map symbolOfTx) = _
  rw [assembleFrom_mark, assembleFrom_long chk hann.le, hann, map_byteAt_range, validate_frameOf]

/-- Settles O44: a frame that announces another length gives no result, or one of another length. -/
theorem frameRoundTrip : Obligations.FrameRoundTrip := by
  intro chk b hb
  refine ⟨assembleFrom_frameOf chk hb, fun hne heq => ?otherLength⟩
  case otherLength =>
    have hann := announcedLen_frameOf chk hb
    have hlen := length_frameOf chk b
    replace heq : (assembleFrom chk RxState.start ((bits (frameOf chk b)).map symbolOfTx)).1
        = [.ok (frameOf chk b)] := heq
    rcases Nat.lt_or_ge (frameOf chk b).length (announcedLen (frameOf chk b)) with hshort | hlong
    · rw [assembleFrom_short chk hshort] at heq
      cases heq
    · rw [assembleFrom_long chk hlong] at heq
      obtain ⟨hsame, -⟩ := validate_eq_ok (List.cons.inj heq).1
      have := congrArg List.length hsame
      rw [List.length_map, List.length_range] at this
      omega

/-! ### The stream -/

/-- The stream view from any receive state is the fold of the assembler over the decoded pulses (R266). -/
theorem rxStream_eq (chk : Bytes → Byte) (w : Windows) (r : RxState) (ps : List Pulse) :
    rxStream chk w r ps
      = ((assembleFrom chk r (decodePulses w ps)).1.map resultOfAsm, (assembleFrom chk r (decodePulses w ps)).2) := by
  induction ps generalizing r with
  | nil => rfl
  | cons p rest ih =>
    rw [rxStream, ih]
    show ((Option.map resultOfAsm _).toList ++ _, _) = ((_ ++ _ : List AsmResult).map resultOfAsm, _)
    rw [List.map_append, Option.toList_map]
    rfl

/-- Settles O49. -/
theorem streamIsThePipeline : Obligations.StreamIsThePipeline := by
  intro chk w ps
  rw [rxStream_eq]
  exact ⟨rfl, rfl⟩

theorem rxStream_append (chk : Bytes → Byte) (w : Windows) (r : RxState) (a b : List Pulse) :
    rxStream chk w r (a ++ b)
      = ((rxStream chk w r a).1 ++ (rxStream chk w (rxStream chk w r a).2 b).1,
          (rxStream chk w (rxStream chk w r a).2 b).2) := by
  simp only [rxStream_eq, decodePulses, List.map_append, assembleFrom_append]

theorem rxStream_singleton (chk : Bytes → Byte) (w : Windows) (r : RxState) (p : Pulse) :
    rxStream chk w r [p] = ((rxStep chk w r p).2.toList, (rxStep chk w r p).1) := by
  simp [rxStream]

/-- A frame on the wire is received as `dispatch` of it, from idle to idle. -/
theorem rxStream_wire (chk : Bytes → Byte) {c : Cfg} {b : Bytes} (hok : cfgOk c = true) (hb : 2 ≤ b.length)
    (hlen : frameLen (byteAt b 0) (hiNibble (byteAt b 1)) = b.length + 1) :
    rxStream chk (windowsOf c) RxState.idle (wire c (frameOf chk b)) = ([dispatch (frameOf chk b)], RxState.idle) := by
  obtain ⟨heven, -⟩ := encodePulses_eq_some (encodePulses_wire c (frameOf chk b))
  have hdecode : decodePulses (windowsOf c) (wire c (frameOf chk b)) = (disassemble b chk).map symbolOfTx :=
    decodePulses_encodeFrom hok _ 0 heven
  rw [rxStream_eq, hdecode, assembleFrom_frameOf chk hb hlen]
  rfl

/-- Settles O48: the pulses are the serialized message on the wire, received as `dispatch` of it. -/
theorem transmittedMessageIsReceived : Obligations.TransmittedMessageIsReceived := by
  rintro s t r ps ⟨hok, hwin, -⟩ hrun hps
  obtain rfl := eq_emitTx_of_exec_txMsg hrun
  replace hps : txOutput s.cfg r = .pulses ps := Option.some.inj hps
  cases hc : construct r with
  | error x =>
    rw [txOutput_of_error s.cfg hc] at hps
    cases hps
  | ok m =>
    rw [txOutput_of_ok s.cfg hc] at hps
    cases hps
    have hlen := bodyAnnouncesItsLength m
    have hbounds := classLen_bounds (messageClass m)
    have hbody : 2 ≤ (body m).length := by
      have := length_body m
      omega
    refine ⟨m, rfl, ?_⟩
    rw [hwin, serialize, rxStream_wire _ hok hbody hlen.symm, frameOf,
      dispatch_body_append _ (messageOk_of_construct hc)]

/-! ### Noise and gaps -/

theorem rxStep_of_invalid {chk : Bytes → Byte} {w : Windows} {p : Pulse} (h : classify w p = .invalid) (r : RxState) :
    rxStep chk w r p
      = (RxState.idle, some (.fail (.timingInvalid .invalidPulse (r.rxSt == .collecting) r.nbits))) := by
  rw [rxStep, h, rxSymbolStep_invalid]

theorem rxStep_idle_of_bit {chk : Bytes → Byte} {w : Windows} {p : Pulse}
    (h : classify w p = .zero ∨ classify w p = .one) : rxStep chk w RxState.idle p = (RxState.idle, none) :=
  rxSymbolStep_bit_of_waiting chk h rfl

/-- A space is no mark, so what is not Invalid is a data bit (R133, R135). -/
theorem classify_low {w : Windows} {p : Pulse} (hl : p.level = .low) (h : classify w p ≠ .invalid) :
    classify w p = .zero ∨ classify w p = .one := by
  cases hsym : classify w p with
  | zero => exact .inl rfl
  | one => exact .inr rfl
  | invalid => exact absurd hsym h
  | preamble =>
    rw [level_of_classify_preamble hsym] at hl
    cases hl

/-- Settles O51: each frame is received from idle to idle, so only the pulse between them can add a result. -/
theorem noiseAndGapResilience : Obligations.NoiseAndGapResilience := by
  intro c b1 b2 x hok hb1 hb2 hlen1 hlen2 chk w f1 f2 noise
  have frame1 : rxStream chk w RxState.idle (wire c f1) = ([dispatch f1], RxState.idle) :=
    rxStream_wire chk hok hb1 hlen1
  have frame2 : rxStream chk w RxState.idle (wire c f2) = ([dispatch f2], RxState.idle) :=
    rxStream_wire chk hok hb2 hlen2
  have between {res : Option RxResult} (hx : rxStep chk w RxState.idle x = (RxState.idle, res)) :
      rxStream chk w RxState.idle (wire c f1 ++ [x] ++ wire c f2)
        = (dispatch f1 :: res.toList ++ [dispatch f2], RxState.idle) := by
    rw [rxStream_append, rxStream_append, frame1, rxStream_singleton, hx, frame2]
    rfl
  refine ⟨fun hx => between (rxStep_of_invalid hx _), fun hl => ?low, ?adjacent⟩
  case low =>
    by_cases hx : classify w x = .invalid
    · rw [if_pos hx]
      exact between (rxStep_of_invalid hx _)
    · rw [if_neg hx]
      exact between (rxStep_idle_of_bit (classify_low hl hx))
  case adjacent =>
    rw [rxStream_append, frame1, frame2]
    rfl

/-- Settles O52. -/
theorem noPreambleNoFrame : Obligations.NoPreambleNoFrame := by
  intro chk w ps h
  induction ps with
  | nil => rfl
  | cons p rest ih =>
    obtain ⟨hp, hrest⟩ := List.forall_mem_cons.mp h
    rw [rxStream, rxStep_idle_of_bit hp, ih hrest]
    rfl

/-! ### The run over a list of pulses -/

/-- The requests of a host that hands over pulses one by one. -/
def pulseRequests (ps : List Pulse) : List Input := ps.map fun p => .port (.rxPulse (pulseWord p))

/-- A run begins with its first step. -/
theorem run_succ {s t : State} (k : Nat) (h : step s = .next t) :
    Host.Core.run Sys2Proof.core (k + 1) s = Host.Core.run Sys2Proof.core k t := by
  have hcore : Sys2Proof.core.step s = .next t := h
  simp only [Host.Core.run, hcore]

/-- A step on a handed-over pulse is the receive step of it, the requests after it still to come. -/
theorem step_pulseRequest {s : State} {p : Pulse} {rest : List Pulse} (hinv : s.Inv)
    (hin : s.input = pulseRequests (p :: rest)) :
    ∃ t, step s = .next t ∧ t.Inv ∧ t.input = pulseRequests rest ∧ t.cfg = s.cfg ∧ t.win = s.win
      ∧ rxStep (checksumOf s.cfg.checksum) s.win s.rx p = (t.rx, t.rxResult) := by
  have hstep : step s = .next (received (classify s.win p) (s.popInput (pulseRequests rest))) := by
    have hdecode : decode s.win (.port (.rxPulse (pulseWord p))) = .rxPulse p :=
      congrArg Instr.rxPulse (pulseOfWord_pulseWord p)
    have ⟨_, _, hrx⟩ := hinv
    rw [step_of_cons hin, hdecode, exec_rxPulse, State.popInput_win]
    exact receive_eq_received (bitOutOfBuf_of_inv s.rx _ hrx)
  exact ⟨_, hstep, stepKeepsInvariant s _ hinv hstep, rfl, rfl, rfl, rfl⟩

/-- The machine's run from `s` over the pulses `ps` goes through as many states as there are pulses, their results in
order are the stream's, and it ends in the stream's final state. -/
def RunIsStream (s : State) (ps : List Pulse) : Prop :=
  ∃ ts : List State,
    ts.length = ps.length
    ∧ (∀ (k : Nat) (t : State), ts[k]? = some t → Host.Core.run Sys2Proof.core (k + 1) s = .next t)
    ∧ ts.filterMap (fun t => t.rxResult) = (rxStream (checksumOf s.cfg.checksum) s.win s.rx ps).1
    ∧ ∃ t : State, Host.Core.run Sys2Proof.core ps.length s = .next t
      ∧ t.rx = (rxStream (checksumOf s.cfg.checksum) s.win s.rx ps).2 ∧ t.cfg = s.cfg ∧ t.win = s.win ∧ t.input = []

theorem runIsStream_nil {s : State} (hin : s.input = []) : RunIsStream s [] :=
  ⟨[], rfl, by simp, rfl, s, rfl, rfl, rfl, rfl, hin⟩

/-- One receive step before a run that is the stream. -/
theorem runIsStream_cons {s t : State} {p : Pulse} {rest : List Pulse} (hstep : step s = .next t)
    (hcfg : t.cfg = s.cfg) (hwin : t.win = s.win)
    (hrx : rxStep (checksumOf s.cfg.checksum) s.win s.rx p = (t.rx, t.rxResult)) (hrun : RunIsStream t rest) :
    RunIsStream s (p :: rest) := by
  obtain ⟨ts, hlen, hruns, hres, u, hrun, hurx, hucfg, huwin, huin⟩ := hrun
  rw [hcfg, hwin] at hres hurx
  refine ⟨t :: ts, by simp [hlen], fun k u hk => ?runs, ?results, u, ?run, ?final, hucfg.trans hcfg,
    huwin.trans hwin, huin⟩
  case runs =>
    rw [run_succ k hstep]
    cases k with
    | zero =>
      rw [List.getElem?_cons_zero] at hk
      exact congrArg Host.Outcome.next (Option.some.inj hk)
    | succ k => exact hruns k u hk
  case results =>
    rw [rxStream, hrx, ← hres, List.filterMap_cons]
    cases t.rxResult <;> rfl
  case run => rw [List.length_cons, run_succ _ hstep, hrun]
  case final => rw [rxStream, hrx, hurx]

theorem runIsStream {s : State} {ps : List Pulse} (hinv : s.Inv) (hin : s.input = pulseRequests ps) :
    RunIsStream s ps := by
  induction ps generalizing s with
  | nil => exact runIsStream_nil hin
  | cons p rest ih =>
    obtain ⟨t, hstep, htinv, htin, hcfg, hwin, hrx⟩ := step_pulseRequest hinv hin
    exact runIsStream_cons hstep hcfg hwin hrx (ih htinv htin)

/-- Settles O50. -/
theorem runOfPulsesIsTheStream : Obligations.RunOfPulsesIsTheStream := fun s ps hinv =>
  runIsStream (s := { s with input := pulseRequests ps }) hinv rfl

end Sys2Proof.Proofs

/-!
The reductions of the checksum unit (`41_frame_assembler.md` R173, R174, R180), the result records (`60_exceptions.md`
R301), and the channels of a platform (`10_state.md` R51, `43_host_operations.md` R260).
-/

namespace Sys2Proof.Proofs

open Sys2Proof.Machine

/-! ### Reductions that see single bits -/

section
variable {g : Byte → Byte → Byte} (hacc : ∀ x, Function.Injective fun a => g a x)
  (hbyte : ∀ a, Function.Injective (g a))
include hacc

theorem foldl_injective (l : Bytes) : Function.Injective fun a => l.foldl g a := by
  induction l with
  | nil => exact Function.injective_id
  | cons x rest ih => exact ih.comp (hacc x)

include hbyte

/-- A fold whose step is injective in the accumulator and in the byte changes with any one byte. -/
theorem foldl_modify_ne {u : Byte → Byte} (hu : ∀ x, u x ≠ x) (l : Bytes) (a : Byte) {i : Nat} (hi : i < l.length) :
    (l.modify i u).foldl g a ≠ l.foldl g a := by
  induction l generalizing a i with
  | nil => exact absurd hi (Nat.not_lt_zero i)
  | cons x rest ih =>
    cases i with
    | zero =>
      rw [List.modify_zero_cons, List.foldl_cons, List.foldl_cons]
      exact (foldl_injective hacc rest).ne ((hbyte a).ne (hu x))
    | succ i =>
      rw [List.modify_succ_cons, List.foldl_cons, List.foldl_cons]
      exact ih _ (Nat.lt_of_succ_lt_succ hi)

end

theorem flip_ne_self {j : Nat} (hj : j < 8) (x : Byte) : x ^^^ (1#8 <<< j) ≠ x := by
  have hbit : 1#8 <<< j ≠ 0#8 := by interval_cases j <;> decide
  simpa using hbit

theorem chkSingleBit_foldl {g : Byte → Byte → Byte} (hacc : ∀ x, Function.Injective fun a => g a x)
    (hbyte : ∀ a, Function.Injective (g a)) : ChkSingleBit fun b => b.foldl g 0 :=
  fun b _ _ hi hj => foldl_modify_ne hacc hbyte (flip_ne_self hj) b 0 hi

/-- The shift undone: the bit shifted out is the lowest bit of the polynomial, left in bit 0. -/
def crcUnshift (c : Byte) : Byte := if c.getLsbD 0 then ((c ^^^ 0x07#8) >>> 1) ||| 0x80#8 else c >>> 1

theorem crcUnshift_crcShift (c : Byte) : crcUnshift (crcShift c) = c := by
  revert c
  decide

theorem crcShift_injective : Function.Injective crcShift := Function.LeftInverse.injective crcUnshift_crcShift

theorem crcStep8_injective : Function.Injective crcStep8 :=
  crcShift_injective.iterate 8

/-- Settles O53: each reduction is a fold whose step is injective in both arguments. -/
theorem definedChecksumsSeeSingleBits : Obligations.DefinedChecksumsSeeSingleBits := by
  refine ⟨chkSingleBit_foldl ?_ ?_, chkSingleBit_foldl ?_ ?_, chkSingleBit_foldl ?_ ?_⟩
  · exact fun x a b h => by simpa using h
  · exact fun a x y h => by simpa using h
  · exact fun x a b h => by simpa using h
  · exact fun a x y h => by simpa using h
  · exact fun x a b h => by simpa using crcStep8_injective h
  · exact fun a x y h => by simpa using crcStep8_injective h

@[simp] theorem length_flipBit (b : Bytes) (i j : Nat) : (flipBit b i j).length = b.length := List.length_modify _ _ _

/-- A flip in the first part of a byte sequence leaves the second part alone. -/
theorem flipBit_append {a : Bytes} (b : Bytes) {i : Nat} (j : Nat) (hi : i < a.length) :
    flipBit (a ++ b) i j = flipBit a i j ++ b := by
  induction a generalizing i with
  | nil => exact absurd hi (Nat.not_lt_zero i)
  | cons x rest ih =>
    cases i with
    | zero => rfl
    | succ i => exact congrArg (x :: ·) (ih (Nat.lt_of_succ_lt_succ hi))

/-- Settles O54: the checksum byte is that of the body before the flip. -/
theorem flippedBodyBitIsAMismatch : Obligations.FlippedBodyBitIsAMismatch := by
  intro chk b i j hchk hi hj f'
  have hf : f' = flipBit b i j ++ [chk b] := flipBit_append _ j hi
  have hne : chk (bodyOf f') ≠ chkOf f' := by
    rw [hf, bodyOf_append_singleton, chkOf_append_singleton]
    exact hchk b i j hi hj
  refine ⟨if_neg hne, fun hlen => ?parsed⟩
  case parsed =>
    have hlen' : f'.length = b.length + 1 := by rw [hf]; simp
    rw [parse_of_length (by omega) (by omega)]
    exact if_neg hne

/-! ### Result records -/

/-- The field that an identifier stands for (R202). -/
def fieldOfCode (n : BitVec 3) : Option Field :=
  [Field.serial, .sequence, .event, .pin, .baseSerial, .response].find? fun f => fieldCode f = n

theorem fieldOfCode_fieldCode (f : Field) : fieldOfCode (fieldCode f) = some f := by
  cases f <;> decide

/-- The frame that a record carries (R301). -/
def recordFrame (r : ResultRecord) : Bytes := r.frame.take r.len.toNat

/-- Fourteen places and a length of four bits hold every frame of legal length. -/
theorem take_frameField {f : Bytes} (h : f.length ≤ 14) :
    (frameField f).take (BitVec.ofNat 4 f.length).toNat = f := by
  have hlen : (BitVec.ofNat 4 f.length).toNat = f.length := by
    rw [BitVec.toNat_ofNat]
    omega
  have hmin : min f.length maxLen = f.length := Nat.min_eq_left h
  rw [hlen, frameField, ← List.map_take, List.take_range, hmin, map_byteAt_range]

/-- The failure that a record stands for; `failureOfRecord_failureRecord` ties it to the model. -/
def failureOfRecord (r : ResultRecord) : Option Failure :=
  match r.kind.toNat with
  | 1 => some (.timingInvalid (if r.cause = 0 then .invalidPulse else .unexpectedPreamble) (r.collecting == 1) r.nbits)
  | 2 => some .preambleNotFound
  | 3 => some (.checksumMismatch (recordFrame r))
  | 4 => some (.unrecognizedFormat (recordFrame r))
  | 5 => (fieldOfCode r.field).map fun fl => .invalidField fl (recordFrame r)
  | 6 => (fieldOfCode r.field).map .constructionError
  | _ => none

theorem failureOfRecord_failureRecord {f : Failure} (h : (failureFrame f).length ≤ 14) :
    failureOfRecord (failureRecord f) = some f := by
  cases f with
  | timingInvalid c b n => cases c <;> cases b <;> rfl
  | preambleNotFound => rfl
  | checksumMismatch fr => exact congrArg (some ∘ Failure.checksumMismatch) (take_frameField h)
  | unrecognizedFormat fr => exact congrArg (some ∘ Failure.unrecognizedFormat) (take_frameField h)
  | invalidField fl fr =>
    show (fieldOfCode (fieldCode fl)).map (fun x => Failure.invalidField x _) = _
    rw [fieldOfCode_fieldCode]
    exact congrArg (some ∘ Failure.invalidField fl) (take_frameField h)
  | constructionError fl =>
    show (fieldOfCode (fieldCode fl)).map Failure.constructionError = _
    rw [fieldOfCode_fieldCode]
    rfl

/-- The message that a record stands for; `messageOfRecord_messageRecord` ties it to the model. -/
def messageOfRecord (r : ResultRecord) : Option Message :=
  match r.cls.toNat with
  | 1 => (entryEventOf r.code).map (.entrySensor r.serial r.seq)
  | 2 => (motionEventOf r.code).map (.motionSensor r.serial r.seq)
  | 3 => (keychainEventOf r.code).map (.keychainRemote r.serial r.seq)
  | 4 => some (.pinRequest r.serial r.seq r.pin)
  | 5 => (pinResponseOf r.code).map (.pinResponse r.serial r.seq r.baseSerial)
  | _ => none

theorem messageOfRecord_messageRecord (m : Message) : messageOfRecord (messageRecord m) = some m := by
  cases m with
  | entrySensor s q e => cases e <;> rfl
  | motionSensor s q e => cases e <;> rfl
  | keychainRemote s q e => cases e <;> rfl
  | pinRequest s q p => rfl
  | pinResponse ks q bs r => cases r <;> rfl

theorem kind_messageRecord (m : Message) : (messageRecord m).kind = 0 := by
  cases m <;> rfl

theorem kind_failureRecord (f : Failure) : (failureRecord f).kind ≠ 0 := by
  have hcode : (failureRecord f).kind = failureCode f := by cases f <;> rfl
  rw [hcode]
  cases f <;> simp [failureCode]

/-- The result on `rx_result` that a record stands for. -/
def rxOfRecord (r : ResultRecord) : Option RxResult :=
  if r.kind = 0 then (messageOfRecord r).map .ok else (failureOfRecord r).map .fail

theorem rxOfRecord_rxRecord {r : RxResult} (h : ∀ f, r = .fail f → (failureFrame f).length ≤ 14) :
    rxOfRecord (rxRecord r) = some r := by
  cases r with
  | ok m =>
    rw [rxOfRecord, rxRecord, if_pos (kind_messageRecord m), messageOfRecord_messageRecord]
    rfl
  | fail f =>
    rw [rxOfRecord, rxRecord, if_neg (kind_failureRecord f), failureOfRecord_failureRecord (h f rfl)]
    rfl

/-- The result on `tx_result` that a record stands for. -/
def txOfRecord (r : ResultRecord) : Option TxResult :=
  if r.kind = 0 then some (.pulses r.pulses) else (failureOfRecord r).map .fail

theorem txOfRecord_txRecord {r : TxResult} (h : ∀ f, r = .fail f → (failureFrame f).length ≤ 14) :
    txOfRecord (txRecord r) = some r := by
  cases r with
  | pulses ps => rfl
  | fail f =>
    rw [txOfRecord, txRecord, if_neg (kind_failureRecord f), failureOfRecord_failureRecord (h f rfl)]
    rfl

/-- Settles O55: the result can be read back from its record. -/
theorem recordDeterminesResult : Obligations.RecordDeterminesResult := by
  refine ⟨fun r r' h h' heq => ?rx, fun r r' h h' heq => ?tx⟩
  case rx =>
    have hback := congrArg rxOfRecord heq
    rw [rxOfRecord_rxRecord h, rxOfRecord_rxRecord h'] at hback
    exact Option.some.inj hback
  case tx =>
    have hback := congrArg txOfRecord heq
    rw [txOfRecord_txRecord h, txOfRecord_txRecord h'] at hback
    exact Option.some.inj hback

/-! ### Channels -/

/-- Settles O56, by induction on the schedule. -/
theorem channelsAreIndependent : Obligations.ChannelsAreIndependent := by
  intro p schedule j
  induction schedule generalizing p with
  | nil => simp
  | cons i rest ih =>
    rw [Platform.run_cons, ih, Platform.getElem?_stepAt, List.count_cons]
    by_cases hij : i = j
    · simp [hij, Function.iterate_succ]
    · simp [hij]

/-- A request that constructs nothing leaves the channel absent and is taken (R260, R321). -/
theorem step_absent_of_no_construction (why : Absence) {x : Input} (rest : List Input)
    (hx : ∀ b, x = .port (.reset b) → cfgOk b = false) :
    ∃ why', (Channel.absent why (x :: rest)).step = .absent why' rest := by
  rw [Channel.step_absent_cons]
  rcases Channel.request_cases why x rest with ⟨c, hc, hok, -⟩ | ⟨c, -, -, h⟩ | ⟨-, h⟩
  · rw [hx c hc] at hok
    cases hok
  · exact ⟨_, h⟩
  · exact ⟨_, h⟩

/-- As many steps as requests that construct nothing take these requests and construct nothing. -/
theorem iterate_step_absent (rest : List Input) {between : List Input}
    (h : ∀ x ∈ between, ∀ b, x = .port (.reset b) → cfgOk b = false) (why : Absence) {k : Nat}
    (hk : k ≤ between.length) :
    ∃ why', Channel.step^[k] (.absent why (between ++ rest)) = .absent why' (between.drop k ++ rest) := by
  induction between generalizing why k with
  | nil =>
    obtain rfl := Nat.le_zero.mp hk
    exact ⟨why, rfl⟩
  | cons x between ih =>
    cases k with
    | zero => exact ⟨why, rfl⟩
    | succ k =>
      obtain ⟨hx, hrest⟩ := List.forall_mem_cons.mp h
      obtain ⟨why', hstep⟩ := step_absent_of_no_construction why (between ++ rest) hx
      rw [Function.iterate_succ_apply, List.cons_append, hstep]
      exact ih hrest why' (Nat.le_of_succ_le_succ hk)

/-- Settles O57. -/
theorem resetConstructsAgainAfterRefusal : Obligations.ResetConstructsAgainAfterRefusal := by
  refine ⟨fun s c rest hin hbad => ?refusal, fun why between c rest hbetween hok => ⟨fun k hk => ?dropped, ?again⟩⟩
  case refusal =>
    have hstep : step s = .refused .cfgNotOk := (step_of_cons hin).trans (resetRefusesBadCfg _ c hbad)
    rw [Channel.step_refused s _ hstep, hin]
    rfl
  case dropped => exact iterate_step_absent _ hbetween why hk
  case again =>
    obtain ⟨why', hdropped⟩ := iterate_step_absent (.port (.reset c) :: rest) hbetween why le_rfl
    rw [Function.iterate_succ_apply', hdropped, List.drop_length, List.nil_append, Channel.step_absent_cons,
      Channel.request, execReset_of_cfgOk c _ hok]
    rfl

end Sys2Proof.Proofs
